-- ==== Sys2Proof/Word.lean ====
section
/-! DEFINITION. Sys2Proof/Word.lean: bytes, bus words, and the 16-byte values of ENCDEC (R11, R12, R19, R23). -/
namespace Sys2Proof

/-- A byte: an 8-bit value (R12). -/
abbrev Byte := BitVec 8

/-- A 32-bit bus word, also a command word (R44, R61). -/
abbrev Word := BitVec 32

/-- A byte string: a finite sequence of bytes, byte 0 first (R12). -/
abbrev Bytes := List Byte

/-- Four bytes in a row of a byte string, lowest index first: one bus word's worth of a 16-byte
register (R48), one column of the AES array (R81), one word `w[i]` of the key expansion (R95). -/
structure Column where
  b0 : Byte
  b1 : Byte
  b2 : Byte
  b3 : Byte
deriving DecidableEq, Repr, Inhabited

/-- `Bytes16`: a byte string of length 16 (R12), as four columns; byte `4c + r` is byte `r` of column `c` (R81). -/
structure Block where
  c0 : Column
  c1 : Column
  c2 : Column
  c3 : Column
deriving DecidableEq, Repr, Inhabited

/-- `array [0..10] of Bytes16`: the type of the round-key store RK (R23). -/
structure RoundKeys where
  k0 : Block
  k1 : Block
  k2 : Block
  k3 : Block
  k4 : Block
  k5 : Block
  k6 : Block
  k7 : Block
  k8 : Block
  k9 : Block
  k10 : Block
deriving DecidableEq, Repr, Inhabited

end Sys2Proof
end

