-- ==== Sys2Proof/Config.lean ====
section
/-! DEFINITION. Sys2Proof/Config.lean: what a platform fixes and what the spec leaves free (R9, 93_implementation_defined.md U1-U7).
No free value has a body: nothing in Lean can evaluate it or prove a value of it. -/
namespace Sys2Proof.Config

/-- The values ENCDEC_BASE, the bus base address of the register window, may have: any multiple of 0x4000
(R9, R50, U5: OPEN). -/
abbrev legalBase (n : Nat) : Prop := n % 0x4000 = 0

/-- The free bytes: `freeByte g i` is the byte that draw `g` gave for index `i` of a buffer (U2: each byte of
IBUF and OBUF at reset; U3: each byte of OBUF past OUT_LEN at a completion). Assumption log 2 and 3. -/
opaque freeByte : Nat → Nat → Byte

/-- The free bus words: `freeWord g` is the value that draw `g` gave to a read of CHAIN, DOUT, OUT_LEN or the OBUF
window while BUSY = 1 (R146, U1: each read draws a fresh 32-bit value). Assumption log 4 and 15. -/
opaque freeWord : Nat → Word

/-- The values BUF_BYTES may have: a multiple of 16 with 16 ≤ BUF_BYTES ≤ 4096 (R9, U7). -/
abbrev legalBufBytes (n : Nat) : Prop := 16 ≤ n ∧ n ≤ 4096 ∧ n % 16 = 0

end Sys2Proof.Config
end

