-- ==== Sys2Proof/Machine/Constants.lean ====
section
/-! DEFINITION. Sys2Proof/Machine/Constants.lean: the constants of the register window and the hardwired values (R2, R9, R26, R34, R41). -/
namespace Sys2Proof.Machine

/-- The cipher block size in bytes, BLOCK of R9. -/
def blockBytes : Nat := 16

/-- The IV: `000102030405060708090a0b0c0d0e0f`, hardwired; no command and no reset changes it (R26). -/
def iv : Block :=
  ⟨⟨0x00#8, 0x01#8, 0x02#8, 0x03#8⟩, ⟨0x04#8, 0x05#8, 0x06#8, 0x07#8⟩,
   ⟨0x08#8, 0x09#8, 0x0A#8, 0x0B#8⟩, ⟨0x0C#8, 0x0D#8, 0x0E#8, 0x0F#8⟩⟩

/-- The value the ID register always reads (R34). -/
def idValue : Word := 0x41455331#32

/-- `zeros(4)`. -/
def zeroColumn : Column := ⟨0#8, 0#8, 0#8, 0#8⟩

/-- `zeros(16)` (R12). -/
def zeroBlock : Block := ⟨zeroColumn, zeroColumn, zeroColumn, zeroColumn⟩

/-- Every `RK[r] = zeros(16)` (R23). -/
def zeroKeys : RoundKeys :=
  ⟨zeroBlock, zeroBlock, zeroBlock, zeroBlock, zeroBlock, zeroBlock, zeroBlock, zeroBlock, zeroBlock, zeroBlock, zeroBlock⟩

/-- The size of the register window (R41, R50). -/
def windowBytes : Nat := 0x4000

/-- The reference value of BUF_BYTES (R9). -/
def referenceBufBytes : Nat := 4096

/-- Offset of ID (R34). -/
def offId : Nat := 0x000
/-- Offset of CAP (R35). -/
def offCap : Nat := 0x004
/-- Offset of CTRL (R36). -/
def offCtrl : Nat := 0x008
/-- Offset of STATUS (R37). -/
def offStatus : Nat := 0x00C
/-- Offset of CMD (R38). -/
def offCmd : Nat := 0x010
/-- Offset of MSG_LEN (R32). -/
def offMsgLen : Nat := 0x014
/-- Offset of OUT_LEN (R33). -/
def offOutLen : Nat := 0x018
/-- Offset of KEYIN0 (R25). -/
def offKeyin : Nat := 0x020
/-- Offset of IV0 (R26). -/
def offIv : Nat := 0x030
/-- Offset of CHAIN0 (R27). -/
def offChain : Nat := 0x040
/-- Offset of DIN0 (R28). -/
def offDin : Nat := 0x050
/-- Offset of DOUT0 (R29). -/
def offDout : Nat := 0x060
/-- First offset of the IBUF window, 0x1000 to 0x1FFF (R51). -/
def offIbuf : Nat := 0x1000
/-- First offset of the OBUF window, 0x2000 to 0x2FFF (R51). -/
def offObuf : Nat := 0x2000
/-- First offset past the OBUF window: 0x3000 to 0x3FFC are reserved (R41). -/
def offTop : Nat := 0x3000

end Sys2Proof.Machine
end

