-- ==== Sys2Proof/Machine/State.lean ====
section
/-! DEFINITION. Sys2Proof/Machine/State.lean: every piece of state the spec gives ENCDEC (10_state.md), as plain data, and its reset. -/
namespace Sys2Proof.Machine

/-- The error codes of STATUS.ERR (R126), the source's closed variant with OK and ILLEGAL_CMD beside it. Codes 10 to 15
have no constructor: ENCDEC never writes them. DEDUCED (assumption log 12). -/
inductive ErrCode where
  | ok
  | bufferSize
  | keySize
  | dataSize
  | invalidKey
  | nonceSize
  | ivSize
  | tagSize
  | invalidTag
  | illegalCmd
deriving DecidableEq, Repr

/-- Why a step stops with a fault. ENCDEC takes no trap and none of its errors stops it: each is a code in STATUS.ERR
(R131) or an ERROR response on the bus (R129), after which it goes on. So there is no fault, and no constructor. Safe.
DEDUCED (assumption log 14). -/
inductive Fault where
deriving DecidableEq, Repr

/-- Why the model refuses a step. -/
inductive Refusal where
  /-- The instruction has no meaning yet. Raised by no arm of `exec`. Safe. -/
  | notModelled (mnemonic : String)
  /-- A bus transaction issued while `rst_n = 0`: outside the model, which refuses it (R142, U9). Raised by
  `hostTransaction`. Safe: the model says nothing of what the hardware would do. -/
  | busDuringReset
deriving DecidableEq, Repr

/-- The response to a bus transaction (R15, R44). -/
inductive Resp where
  | okay
  | error
deriving DecidableEq, Repr

/-- What the host gets back from a bus transaction: a read returns `(resp, data)`, a write returns `resp` (R44). -/
inductive Reply where
  | read (resp : Resp) (data : Word)
  | write (resp : Resp)
deriving DecidableEq, Repr

/-- What the outside world does to ENCDEC, one event at a time (R44, R56, R71, R142). A bus address is a natural number:
DESIGN CHOICE (assumption log 1). -/
inductive HostEvent where
  /-- `MemRead(addr, 4)`: one 32-bit bus read at a byte address (R15). -/
  | read (addr : Nat)
  /-- `MemWrite(addr, 4, v)`: one 32-bit bus write at a byte address (R15). -/
  | write (addr : Nat) (data : Word)
  /-- The host issues nothing here: the engine takes its step, if it has one (R56, R71). -/
  | engine
  /-- The platform drives the active-low reset input to 0 (R142). -/
  | resetAssert
  /-- The platform lets the reset input rise to 1 (R142). -/
  | resetRelease
deriving DecidableEq, Repr

/-- A message buffer (R30, R31) as plain data: the bytes that something has determined, listed by index, indexes
strictly rising. An unlisted index holds an unspecified byte: the model's draw number `gen` for it
(`Memory.unlisted`, in Machine/Ops.lean). -/
structure Memory where
  cells : List Host.Cell
  gen : Nat
deriving DecidableEq, Repr

/-- The state of one ENCDEC instance. The constants ID and IV (R34, R26) are `idValue` and `iv`: DEDUCED (assumption
log 19). -/
structure State where
  /-- ENCDEC_BASE, the bus address of the register window: a parameter of the instance, which nothing changes (R9, R50). -/
  base : Nat
  /-- BUF_BYTES, as CAP[15:0] shows it: a parameter of the instance, which nothing changes (R9, R35). -/
  bufBytes : Nat
  /-- KEY, the CipherKey (R22). -/
  key : Block
  /-- RK[0..10], the round-key store (R23). -/
  rk : RoundKeys
  /-- KEY_VALID (R24), STATUS bit 2. -/
  keyValid : Bool
  /-- KEYIN, the passphrase staging register (R25). -/
  keyin : Block
  /-- CHAIN, the CBC feedback register (R27). -/
  chain : Block
  /-- DIN, the block input register (R28). -/
  din : Block
  /-- DOUT, the block output register (R29). -/
  dout : Block
  /-- IBUF, the message input buffer (R30). -/
  ibuf : Memory
  /-- OBUF, the message output buffer (R31). -/
  obuf : Memory
  /-- MSG_LEN (R32). -/
  msgLen : BitVec 16
  /-- OUT_LEN (R33). -/
  outLen : BitVec 16
  /-- CTRL.IE (R36). -/
  ie : Bool
  /-- CTRL.TRIM_TRAIL (R36). -/
  trimTrail : Bool
  /-- CTRL.TRIM_LEAD (R36). -/
  trimLead : Bool
  /-- STATUS.DONE (R37). -/
  done : Bool
  /-- STATUS.OVR (R37). -/
  ovr : Bool
  /-- STATUS.ERR (R37, R126). -/
  err : ErrCode
  /-- PEND, the command word in flight; STATUS.BUSY is whether there is one (R39). -/
  pend : Option Word
  /-- The level of the input `rst_n` (R142): false while reset is asserted. -/
  rstN : Bool
  /-- The model's own: what the outside world does next, first event first (assumption log 6). -/
  host : List HostEvent
  /-- The model's own: what the last bus transaction answered, none where it was not ENCDEC's (assumption log 7). -/
  reply : Option Reply
  /-- The model's own: how many draws of unspecified values have been made (assumption log 2, 3, 4). -/
  draws : Nat
deriving DecidableEq, Repr

/-- The machine right after reset: every value is the one of the table of R42. IBUF and OBUF hold draws 0 and 1;
BUF_BYTES is at its reference value (R9) and ENCDEC_BASE at 0 (DESIGN CHOICE, assumption log 5); `rst_n` is high again
(assumption log 9); nothing is scheduled and nothing was answered; two draws are made (assumption log 15). -/
def State.reset : State :=
  { base := 0
    bufBytes := referenceBufBytes
    key := zeroBlock
    rk := zeroKeys
    keyValid := false
    keyin := zeroBlock
    chain := iv
    din := zeroBlock
    dout := zeroBlock
    ibuf := ⟨[], 0⟩
    obuf := ⟨[], 1⟩
    msgLen := 0#16
    outLen := 0#16
    ie := false
    trimTrail := true
    trimLead := true
    done := false
    ovr := false
    err := .ok
    pend := none
    rstN := true
    host := []
    reply := none
    draws := 2 }

end Sys2Proof.Machine
end

