-- ==== Sys2Proof/Machine/Operands.lean ====
section
/-! DEFINITION. Sys2Proof/Machine/Operands.lean: byte strings, 16-byte values and bus words as operands (R12, R13, R48). -/
namespace Sys2Proof.Machine

/-- `rep(n, b)`: the string of `n` copies of byte `b` (R12). -/
def repByte (n : Nat) (b : Byte) : Bytes := List.replicate n b

/-- `zeros(n)` (R12). -/
def zeros (n : Nat) : Bytes := repByte n 0x00#8

/-- The bytes of a column, lowest index first. -/
def columnBytes (c : Column) : Bytes := [c.b0, c.b1, c.b2, c.b3]

/-- The byte string of a `Bytes16`: byte `4c + r` is byte `r` of column `c` (R12, R81). -/
def blockBytesOf (b : Block) : Bytes :=
  columnBytes b.c0 ++ columnBytes b.c1 ++ columnBytes b.c2 ++ columnBytes b.c3

/-- Bytes `S[i..i+4)` of a byte string as a column. The rules take it only where the string is that long. -/
def columnAt (S : Bytes) (i : Nat) : Column :=
  ⟨S.getD i 0#8, S.getD (i + 1) 0#8, S.getD (i + 2) 0#8, S.getD (i + 3) 0#8⟩

/-- Bytes `S[0..16)` of a byte string as a `Bytes16`. The rules take it only of 16 bytes or more. -/
def blockOfBytes (S : Bytes) : Block :=
  ⟨columnAt S 0, columnAt S 4, columnAt S 8, columnAt S 12⟩

/-- The `n` blocks `S[16i..16i+16)` of a byte string, `i` from 0 to `n - 1` (R105, R106). -/
def blocksOfBytes (n : Nat) (S : Bytes) : List Block :=
  match n with
  | 0 => []
  | k + 1 => blockOfBytes S :: blocksOfBytes k (S.drop 16)

/-- The byte string that a list of blocks makes, block 0 first. -/
def bytesOfBlocks (bs : List Block) : Bytes := bs.flatMap blockBytesOf

/-- The `Bytes16` that 32 hex digits denote: byte 0 is the first two digits (R12). -/
def hexBlock (v : BitVec 128) : Block :=
  ⟨hexColumn (v.extractLsb' 96 32), hexColumn (v.extractLsb' 64 32),
   hexColumn (v.extractLsb' 32 32), hexColumn (v.extractLsb' 0 32)⟩
where
  /-- The four bytes that 8 hex digits denote, byte 0 the first two digits (R12). -/
  hexColumn (v : BitVec 32) : Column :=
    ⟨v.extractLsb' 24 8, v.extractLsb' 16 8, v.extractLsb' 8 8, v.extractLsb' 0 8⟩

/-- `A xor B` on four bytes (R13). -/
def xorColumn (a b : Column) : Column := ⟨a.b0 ^^^ b.b0, a.b1 ^^^ b.b1, a.b2 ^^^ b.b2, a.b3 ^^^ b.b3⟩

/-- `A xor B` on two `Bytes16` (R13). -/
def xorBlock (a b : Block) : Block :=
  ⟨xorColumn a.c0 b.c0, xorColumn a.c1 b.c1, xorColumn a.c2 b.c2, xorColumn a.c3 b.c3⟩

/-- The bus word that carries four bytes: little-endian, `b0 | b1 << 8 | b2 << 16 | b3 << 24` (R48). -/
def packWord (c : Column) : Word :=
  c.b0.setWidth 32 ||| c.b1.setWidth 32 <<< 8 ||| c.b2.setWidth 32 <<< 16 ||| c.b3.setWidth 32 <<< 24

/-- The four bytes that a bus word carries, `w[7:0]` at the lowest index (R48). -/
def unpackWord (w : Word) : Column :=
  ⟨w.extractLsb' 0 8, w.extractLsb' 8 8, w.extractLsb' 16 8, w.extractLsb' 24 8⟩

/-- Bytes `X[4j..4j+4)` of a 16-byte register, which its word `Xj` carries (R41, R48). -/
def blockColumn (x : Block) (j : Fin 4) : Column :=
  match j with
  | 0 => x.c0
  | 1 => x.c1
  | 2 => x.c2
  | 3 => x.c3

/-- `X[4j..4j+4) <- c` on a 16-byte register (R48, R73). -/
def setBlockColumn (x : Block) (j : Fin 4) (c : Column) : Block :=
  match j with
  | 0 => { x with c0 := c }
  | 1 => { x with c1 := c }
  | 2 => { x with c2 := c }
  | 3 => { x with c3 := c }

end Sys2Proof.Machine
end

