-- ==== Sys2Proof/Machine/Ops.lean ====
section
/-! DEFINITION. Sys2Proof/Machine/Ops.lean: the message buffers' operations, and how a command starts and ends (R16, R74, R75). -/
namespace Sys2Proof.Machine

/-! ## The message buffers (R30, R31) -/

/-- What an unlisted index reads as: an unspecified byte, the free byte of the buffer's draw (U2, U3). Assumption log 2. -/
def Memory.unlisted (m : Memory) (i : Nat) : Byte := Config.freeByte m.gen i

/-- The listed byte at an index, if something has determined it. -/
def findCell (cells : List Host.Cell) (i : Nat) : Option Byte :=
  match cells with
  | [] => none
  | (a, v) :: rest => if a = i then some v else findCell rest i

/-- Byte `i` of a buffer (R14). -/
def Memory.read (m : Memory) (i : Nat) : Byte :=
  match findCell m.cells i with
  | some v => v
  | none => m.unlisted i

/-- Lists `v` at index `i`, keeping the indexes strictly rising. -/
def putCell (i : Nat) (v : Byte) (cells : List Host.Cell) : List Host.Cell :=
  match cells with
  | [] => [(i, v)]
  | (a, w) :: rest =>
    if i < a then (i, v) :: (a, w) :: rest
    else if i = a then (i, v) :: rest
    else (a, w) :: putCell i v rest

/-- Byte `i` of a buffer becomes `v`. -/
def Memory.write (m : Memory) (i : Nat) (v : Byte) : Memory := { m with cells := putCell i v m.cells }

/-- The canonical form of a buffer: the listed indexes strictly rise. An unlisted index has no listed value, so no
entry can equal what it reads as (assumption log 2). -/
abbrev Memory.wf (m : Memory) : Prop := m.cells.Pairwise (fun a b => a.1 < b.1)

/-- Every listed index lies in `[0, n)`, the buffer's indexes (R30, R31). -/
abbrev Memory.within (m : Memory) (n : Nat) : Prop := ∀ c ∈ m.cells, c.1 < n

/-- `B[0..n)`, the first `n` bytes of a buffer (R14). -/
def Memory.slice (m : Memory) (n : Nat) : Bytes := (List.range n).map m.read

/-- `B[i..i+4)` of a buffer, what its window word at `i` carries (R51). -/
def Memory.column (m : Memory) (i : Nat) : Column := ⟨m.read i, m.read (i + 1), m.read (i + 2), m.read (i + 3)⟩

/-- `B[i..i+4) <- c` on a buffer (R51, R73). -/
def Memory.writeColumn (m : Memory) (i : Nat) (c : Column) : Memory :=
  (((m.write i c.b0).write (i + 1) c.b1).write (i + 2) c.b2).write (i + 3) c.b3

/-- The cells that list the bytes of `S` from index `i` on. -/
def cellsFrom (i : Nat) (S : Bytes) : List Host.Cell :=
  match S with
  | [] => []
  | b :: rest => (i, b) :: cellsFrom (i + 1) rest

/-- `B[0..len(S)) <- S`, every byte past `S` unspecified: the free bytes of draw `g` (R117, R148, U3). -/
def Memory.filled (g : Nat) (S : Bytes) : Memory := ⟨cellsFrom 0 S, g⟩

/-! ## How a command starts and ends -/

/-- `launch(v)`, on a CMD write while idle: PEND <- some(v), DONE <- 0, ERR <- 0 (R74). -/
def State.launch (s : State) (v : Word) : State := { s with pend := some v, done := false, err := .ok }

/-- The completion bookkeeping: ERR <- code, DONE <- 1, PEND <- none (R75). -/
def State.finish (s : State) (code : ErrCode) : State := { s with err := code, done := true, pend := none }

/-- `complete`: the command ends with error code OK after its writes (R16). -/
def State.complete (s : State) : State := s.finish .ok

/-- `raise Error(code)`: the command ends at once, on the state it began in, and writes nothing but ERR, DONE and PEND
(R16, R77). It is ENCDEC's whole trap entry (R131); there is no return from it (R132). -/
def State.raiseError (s : State) (code : ErrCode) : State := s.finish code

/-! ## The shared parts of the message commands' effects -/

/-- `OBUF[0..len(S)) <- S`, `OBUF[len(S)..BUF_BYTES) <- unspecified`, `OUT_LEN <- len(S)` (R117-R120). -/
def State.output (s : State) (S : Bytes) : State :=
  { s with obuf := Memory.filled s.draws S, outLen := BitVec.ofNat 16 S.length, draws := s.draws + 1 }

/-- MSG_LEN as a number of bytes (R32). -/
def State.inputLength (s : State) : Nat := s.msgLen.toNat

/-- `IBUF[0..MSG_LEN)`, the message a message command reads (R30, R32). -/
def State.input (s : State) : Bytes := s.ibuf.slice s.inputLength

/-- The length check of PAD and ENC.MSG: MSG_LEN ≥ BUF_BYTES, so the padded message would not fit OBUF (R117, R126). -/
def State.tooLongToPad (s : State) : Bool := decide (s.bufBytes ≤ s.inputLength)

/-- The length check of UNPAD and DEC.MSG: MSG_LEN is 0, is no multiple of 16, or exceeds BUF_BYTES (R118, R126). -/
def State.badCipherLength (s : State) : Bool :=
  decide (s.inputLength = 0 ∨ s.inputLength % blockBytes ≠ 0 ∨ s.bufBytes < s.inputLength)

end Sys2Proof.Machine
end

