-- ==== Sys2Proof/Machine/Flags.lean ====
section
/-! DEFINITION. Sys2Proof/Machine/Flags.lean: the status and control bits, their register words and the interrupt (R36, R37, R40, R126). -/
namespace Sys2Proof.Machine

/-- One bit as a number. -/
def bitNat (b : Bool) : Nat := if b then 1 else 0

/-- The code of an error, STATUS.ERR's four bits (R126). -/
def ErrCode.code (e : ErrCode) : BitVec 4 :=
  match e with
  | .ok => 0#4
  | .bufferSize => 1#4
  | .keySize => 2#4
  | .dataSize => 3#4
  | .invalidKey => 4#4
  | .nonceSize => 5#4
  | .ivSize => 6#4
  | .tagSize => 7#4
  | .invalidTag => 8#4
  | .illegalCmd => 9#4

/-- The codes that some rule raises, or OK: not 5 to 8 (R127). -/
def ErrCode.raised (e : ErrCode) : Bool :=
  match e with
  | .ok => true
  | .bufferSize => true
  | .keySize => true
  | .dataSize => true
  | .invalidKey => true
  | .nonceSize => false
  | .ivSize => false
  | .tagSize => false
  | .invalidTag => false
  | .illegalCmd => true

/-- STATUS.BUSY: a command is in flight (R39). -/
def State.busy (s : State) : Bool := s.pend.isSome

/-- `irq = STATUS.DONE AND CTRL.IE`, the level of the only interrupt output (R40, R133). -/
def State.irq (s : State) : Bool := s.done && s.ie

/-- What a read of STATUS returns: BUSY in bit 0, DONE in 1, KEY_VALID in 2, OVR in 3, ERR in 11:8, the rest 0 (R37). -/
def State.statusWord (s : State) : Word :=
  BitVec.ofNat 32 (bitNat s.busy + 2 * bitNat s.done + 4 * bitNat s.keyValid + 8 * bitNat s.ovr + 256 * s.err.code.toNat)

/-- A write to STATUS: DONE <- DONE AND NOT v[1], OVR <- OVR AND NOT v[3], nothing else (R37). -/
def State.writeStatus (s : State) (v : Word) : State :=
  { s with done := s.done && !(v.getLsbD 1), ovr := s.ovr && !(v.getLsbD 3) }

/-- What a read of CTRL returns: IE in bit 0, TRIM_TRAIL in 1, TRIM_LEAD in 2, the rest 0 (R36). -/
def State.ctrlWord (s : State) : Word :=
  BitVec.ofNat 32 (bitNat s.ie + 2 * bitNat s.trimTrail + 4 * bitNat s.trimLead)

/-- A write to CTRL: IE <- v[0], TRIM_TRAIL <- v[1], TRIM_LEAD <- v[2]; bits 31:3 are ignored (R36, R73). -/
def State.writeCtrl (s : State) (v : Word) : State :=
  { s with ie := v.getLsbD 0, trimTrail := v.getLsbD 1, trimLead := v.getLsbD 2 }

/-- What a read of CAP returns: BUF_BYTES in bits 15:0 (R35). -/
def State.capWord (s : State) : Word := BitVec.ofNat 32 (s.bufBytes % 65536)

end Sys2Proof.Machine
end

