-- ==== Sys2Proof/Machine/Bus.lean ====
section
/-! DEFINITION. Sys2Proof/Machine/Bus.lean: the host's steps: the register map, bus reads and bus writes (R41, R44-R51, R72, R73). -/
namespace Sys2Proof.Machine

/-- What an offset of the register window selects (R41). -/
inductive Slot where
  | id
  | cap
  | ctrl
  | status
  | cmd
  | msgLen
  | outLen
  | keyin (j : Fin 4)
  | iv (j : Fin 4)
  | chain (j : Fin 4)
  | din (j : Fin 4)
  | dout (j : Fin 4)
  /-- The IBUF window word that carries `IBUF[i..i+4)`. -/
  | ibuf (i : Nat)
  /-- The OBUF window word that carries `OBUF[i..i+4)`. -/
  | obuf (i : Nat)
  /-- A reserved offset, a window word past BUF_BYTES among them (R47, R51). -/
  | reserved
deriving DecidableEq, Repr

/-- The offset of a transaction that targets ENCDEC, ENCDEC_BASE ≤ addr < ENCDEC_BASE + 0x4000; none for any other
address (R44). -/
def windowOffset (base addr : Nat) : Option (BitVec 14) :=
  if base ≤ addr ∧ addr < base + windowBytes then some (BitVec.ofNat 14 (addr - base)) else none

/-- `off[1:0] ≠ 0` (R46). -/
def misaligned (off : BitVec 14) : Bool := decide (off.toNat % 4 ≠ 0)

/-- The word number of an offset inside a 16-byte register, all of which lie at multiples of 16 (R41, R48). -/
def wordIndex (o : Nat) : Fin 4 := ⟨o / 4 % 4, Nat.mod_lt _ (by decide)⟩

/-- A word of a buffer window: reserved where it lies past the buffer's end (R51), in flight as well as idle: DEDUCED
(assumption log 10). -/
def windowSlot (bufBytes i : Nat) (inside : Slot) : Slot := if i + 4 ≤ bufBytes then inside else .reserved

/-- The register map of R41: what an aligned offset selects. -/
def selectSlot (bufBytes : Nat) (off : BitVec 14) : Slot :=
  let o := off.toNat
  if o = offId then .id
  else if o = offCap then .cap
  else if o = offCtrl then .ctrl
  else if o = offStatus then .status
  else if o = offCmd then .cmd
  else if o = offMsgLen then .msgLen
  else if o = offOutLen then .outLen
  else if o < offKeyin then .reserved
  else if o < offIv then .keyin (wordIndex o)
  else if o < offChain then .iv (wordIndex o)
  else if o < offDin then .chain (wordIndex o)
  else if o < offDout then .din (wordIndex o)
  else if o < offDout + 16 then .dout (wordIndex o)
  else if o < offIbuf then .reserved
  else if o < offObuf then windowSlot bufBytes (o - offIbuf) (.ibuf (o - offIbuf))
  else if o < offTop then windowSlot bufBytes (o - offObuf) (.obuf (o - offObuf))
  else .reserved

/-- The slots whose reads are unspecified while BUSY = 1: CHAIN0-3, DOUT0-3, OUT_LEN and the OBUF window (R146). -/
def Slot.volatile (sl : Slot) : Bool :=
  match sl with
  | .outLen => true
  | .chain _ => true
  | .dout _ => true
  | .obuf _ => true
  | .id => false
  | .cap => false
  | .ctrl => false
  | .status => false
  | .cmd => false
  | .msgLen => false
  | .keyin _ => false
  | .iv _ => false
  | .din _ => false
  | .ibuf _ => false
  | .reserved => false

/-- The value of a register or window word (R41); write-only registers and reserved offsets read 0 (R47, R72). -/
def slotValue (s : State) (sl : Slot) : Word :=
  match sl with
  | .id => idValue
  | .cap => s.capWord
  | .ctrl => s.ctrlWord
  | .status => s.statusWord
  | .cmd => 0#32
  | .msgLen => s.msgLen.setWidth 32
  | .outLen => s.outLen.setWidth 32
  | .keyin _ => 0#32
  | .iv j => packWord (blockColumn Sys2Proof.Machine.iv j)
  | .chain j => packWord (blockColumn s.chain j)
  | .din j => packWord (blockColumn s.din j)
  | .dout j => packWord (blockColumn s.dout j)
  | .ibuf i => packWord (s.ibuf.column i)
  | .obuf i => packWord (s.obuf.column i)
  | .reserved => 0#32

/-- `MemRead(ENCDEC_BASE + off, 4)` (R72): the response, the data, and the state after it, which differs only where a
draw was made for an unspecified value. -/
def busRead (off : BitVec 14) (s : State) : Resp × Word × State :=
  if misaligned off then (.error, 0#32, s)
  else
    let sl := selectSlot s.bufBytes off
    if s.busy && sl.volatile then (.okay, Config.freeWord s.draws, { s with draws := s.draws + 1 })
    else (.okay, slotValue s sl, s)

/-- What a write to a slot stores while no command is in flight; a read-only register and a reserved offset ignore it
(R47, R73). STATUS is not here: `busWrite` writes it first, in flight or not. -/
def writeSlot (s : State) (sl : Slot) (v : Word) : State :=
  match sl with
  | .ctrl => s.writeCtrl v
  | .cmd => s.launch v
  | .msgLen => { s with msgLen := v.extractLsb' 0 16 }
  | .keyin j => { s with keyin := setBlockColumn s.keyin j (unpackWord v) }
  | .din j => { s with din := setBlockColumn s.din j (unpackWord v) }
  | .ibuf i => { s with ibuf := s.ibuf.writeColumn i (unpackWord v) }
  | .id => s
  | .cap => s
  | .status => s
  | .outLen => s
  | .iv _ => s
  | .chain _ => s
  | .dout _ => s
  | .obuf _ => s
  | .reserved => s

/-- `MemWrite(ENCDEC_BASE + off, 4, v)` (R73): the response, and the state after it. A misaligned write changes nothing
(R46); STATUS is written in flight as well (R37); any other write in flight is dropped and sets OVR (R145). -/
def busWrite (off : BitVec 14) (v : Word) (s : State) : Resp × State :=
  if misaligned off then (.error, s)
  else if off.toNat = offStatus then (.okay, s.writeStatus v)
  else if s.busy then (.okay, { s with ovr := true })
  else (.okay, writeSlot s (selectSlot s.bufBytes off) v)

/-- A read transaction that targets ENCDEC, with its reply. -/
def hostRead (off : BitVec 14) (s : State) : State :=
  let r := busRead off s
  { r.2.2 with reply := some (.read r.1 r.2.1) }

/-- A write transaction that targets ENCDEC, with its reply. -/
def hostWrite (off : BitVec 14) (v : Word) (s : State) : State :=
  let r := busWrite off v s
  { r.2 with reply := some (.write r.1) }

/-- One bus transaction at a byte address (R44): not ENCDEC's outside its window (DEDUCED, assumption log 11), refused
while `rst_n = 0` (R142, U9). -/
def hostTransaction (addr : Nat) (run : BitVec 14 → State) (s : State) : Host.Outcome State Fault Refusal :=
  match windowOffset s.base addr with
  | none => .next { s with reply := none }
  | some off => if s.rstN then .next (run off) else .refused .busDuringReset

end Sys2Proof.Machine
end

