-- ==== Sys2Proof/Syntax.lean ====
section
/-! DEFINITION. Sys2Proof/Syntax.lean: the commands of ENCDEC, its analogue of instructions (R19, R64). -/
namespace Sys2Proof

/-- A command. One constructor per row of spec/opcode_table.json; KEYLOAD alone has an operand in its word (R62),
every other operand is a fixed named register (R20). -/
inductive Instr where
  /-- NOP (R80). -/
  | nop
  /-- KEYLOAD KLEN (R102): `klen` is the passphrase length in bytes, the value of the KLEN field (R62). -/
  | keyload (klen : Nat)
  /-- KEYCLR (R103). -/
  | keyclr
  /-- ECB.ENC (R99). -/
  | ecbEnc
  /-- ECB.DEC (R100). -/
  | ecbDec
  /-- CHAIN.INIT (R108). -/
  | chainInit
  /-- CBC.ENC.BLK (R109). -/
  | cbcEncBlk
  /-- CBC.DEC.BLK (R110). -/
  | cbcDecBlk
  /-- PAD (R117). -/
  | pad
  /-- UNPAD (R118). -/
  | unpad
  /-- ENC.MSG (R119). -/
  | encMsg
  /-- DEC.MSG (R120). -/
  | decMsg
deriving DecidableEq, Repr

end Sys2Proof
end

