-- ==== Sys2Proof/WellFormed.lean ====
section
/-! DEFINITION. Sys2Proof/WellFormed.lean: which commands have an encoding (R62, R69). -/
namespace Sys2Proof

/-- A command is well formed when its operand fits its field: KLEN is 0 to 31 (R62; R69: an assembler refuses
KEYLOAD with an operand outside 0 to 31). The commands with no operand always are. -/
def Instr.wellFormed (i : Instr) : Bool :=
  match i with
  | .keyload klen => decide (klen ≤ 31)
  | .nop => true
  | .keyclr => true
  | .ecbEnc => true
  | .ecbDec => true
  | .chainInit => true
  | .cbcEncBlk => true
  | .cbcDecBlk => true
  | .pad => true
  | .unpad => true
  | .encMsg => true
  | .decMsg => true

end Sys2Proof
end

