-- ==== Sys2Proof/Decode.lean ====
section
/-! DEFINITION. Sys2Proof/Decode.lean: the decoder of command words, total on every 32-bit word (R61-R67), and the encoder. -/
namespace Sys2Proof

/-- Why a command word is illegal: the three ways R65 names. Safe: the machine reports each as ILLEGAL_CMD and goes on (R128). Which name a word gets where several fit is a
DESIGN CHOICE (assumption log 13). -/
inductive Illegal where
  /-- A nonzero bit in RSV0 (bits 7:4) or RSV1 (bits 31:13). -/
  | reservedBits
  /-- OP in 0xC to 0xF. -/
  | badOpcode
  /-- A nonzero KLEN with an OP other than 0x1. -/
  | strayKlen
deriving DecidableEq, Repr

/-- OP, bits [3:0] of a command word (R61). -/
def opField (w : Word) : Nat := (w.extractLsb' 0 4).toNat

/-- RSV0, bits [7:4] of a command word (R61). -/
def rsv0Field (w : Word) : Nat := (w.extractLsb' 4 4).toNat

/-- KLEN, bits [12:8] of a command word: unsigned, used unchanged (R61, R62). -/
def klenField (w : Word) : Nat := (w.extractLsb' 8 5).toNat

/-- RSV1, bits [31:13] of a command word (R61). -/
def rsv1Field (w : Word) : Nat := (w.extractLsb' 13 19).toNat

/-- The command with opcode 0x2 to 0xB, the rows of R64 that R67 finds by OP alone. -/
def decodeOp (op : Nat) : Option Instr :=
  match op with
  | 0x2 => some .keyclr
  | 0x3 => some .ecbEnc
  | 0x4 => some .ecbDec
  | 0x5 => some .chainInit
  | 0x6 => some .cbcEncBlk
  | 0x7 => some .cbcDecBlk
  | 0x8 => some .pad
  | 0x9 => some .unpad
  | 0xA => some .encMsg
  | 0xB => some .decMsg
  | _ => none

/-- The name of what is wrong with a word that matches no row (R65). -/
def illegalReason (w : Word) : Illegal :=
  if rsv0Field w ≠ 0 ∨ rsv1Field w ≠ 0 then .reservedBits
  else if 0xC ≤ opField w then .badOpcode
  else .strayKlen

/-- `decode` of R67: every 32-bit word is one of the 12 commands or illegal. -/
def decode (w : Word) : Except Illegal Instr :=
  if w = 0x00000000#32 then .ok .nop
  else if w &&& 0xFFFFE0FF#32 = 0x00000001#32 then .ok (.keyload (klenField w))
  else if w >>> 4 = 0#32 then
    match decodeOp (opField w) with
    | some i => .ok i
    | none => .error (illegalReason w)
  else .error (illegalReason w)

/-- The opcode of a command, the OP column of R64. -/
def opcode (i : Instr) : Nat :=
  match i with
  | .nop => 0x0
  | .keyload _ => 0x1
  | .keyclr => 0x2
  | .ecbEnc => 0x3
  | .ecbDec => 0x4
  | .chainInit => 0x5
  | .cbcEncBlk => 0x6
  | .cbcDecBlk => 0x7
  | .pad => 0x8
  | .unpad => 0x9
  | .encMsg => 0xA
  | .decMsg => 0xB

/-- The command word of a well-formed command (R61, R64): OP in bits 3:0, KLEN in bits 12:8, all other bits 0. -/
def encode (i : Instr) : Word :=
  match i with
  | .keyload klen => BitVec.ofNat 32 klen <<< 8 ||| 0x00000001#32
  | .nop => 0x00000000#32
  | .keyclr => 0x00000002#32
  | .ecbEnc => 0x00000003#32
  | .ecbDec => 0x00000004#32
  | .chainInit => 0x00000005#32
  | .cbcEncBlk => 0x00000006#32
  | .cbcDecBlk => 0x00000007#32
  | .pad => 0x00000008#32
  | .unpad => 0x00000009#32
  | .encMsg => 0x0000000A#32
  | .decMsg => 0x0000000B#32

/-- A row of the opcode map of R64, as `opcode_table.json` has it. -/
structure OpcodeRow where
  mnemonic : String
  value : Word
  mask : Word
deriving DecidableEq, Repr

/-- A word decodes to the command of a row when `(word AND mask) = match` (R64). -/
def OpcodeRow.hits (r : OpcodeRow) (w : Word) : Bool := decide (w &&& r.mask = r.value)

/-- The opcode map of R64. -/
def opcodeRows : List OpcodeRow :=
  [⟨"NOP", 0x00000000#32, 0xFFFFFFFF#32⟩, ⟨"KEYLOAD", 0x00000001#32, 0xFFFFE0FF#32⟩,
   ⟨"KEYCLR", 0x00000002#32, 0xFFFFFFFF#32⟩, ⟨"ECB.ENC", 0x00000003#32, 0xFFFFFFFF#32⟩,
   ⟨"ECB.DEC", 0x00000004#32, 0xFFFFFFFF#32⟩, ⟨"CHAIN.INIT", 0x00000005#32, 0xFFFFFFFF#32⟩,
   ⟨"CBC.ENC.BLK", 0x00000006#32, 0xFFFFFFFF#32⟩, ⟨"CBC.DEC.BLK", 0x00000007#32, 0xFFFFFFFF#32⟩,
   ⟨"PAD", 0x00000008#32, 0xFFFFFFFF#32⟩, ⟨"UNPAD", 0x00000009#32, 0xFFFFFFFF#32⟩,
   ⟨"ENC.MSG", 0x0000000A#32, 0xFFFFFFFF#32⟩, ⟨"DEC.MSG", 0x0000000B#32, 0xFFFFFFFF#32⟩]

/-- A command's mnemonic in the opcode map of R64. -/
def mnemonic (i : Instr) : String :=
  match i with
  | .nop => "NOP"
  | .keyload _ => "KEYLOAD"
  | .keyclr => "KEYCLR"
  | .ecbEnc => "ECB.ENC"
  | .ecbDec => "ECB.DEC"
  | .chainInit => "CHAIN.INIT"
  | .cbcEncBlk => "CBC.ENC.BLK"
  | .cbcDecBlk => "CBC.DEC.BLK"
  | .pad => "PAD"
  | .unpad => "UNPAD"
  | .encMsg => "ENC.MSG"
  | .decMsg => "DEC.MSG"

/-- The command word whose low `nbits` bits are `w`, the bits above them 0. ENCDEC stores no command in a memory: the
word reaches the decoder whole, as the data of a CMD write (R38, R59). -/
def tableWord (nbits w : Nat) : Word := BitVec.ofNat 32 (w % 2 ^ nbits)

/-- The command the decoder reads from an opcode-table word, none where it is illegal. -/
def decodeTableWord (nbits w : Nat) : Option Instr :=
  match decode (tableWord nbits w) with
  | .ok i => some i
  | .error _ => none

end Sys2Proof
end

