-- ==== Sys2Proof/Machine/Aes.lean ====
section
/-! DEFINITION. Sys2Proof/Machine/Aes.lean: the AES-128 core, key expansion, cipher and inverse cipher (R81-R97). -/
namespace Sys2Proof.Machine

/-! ## Field arithmetic -/

/-- `xtime(a)`: multiplication by 0x02 modulo 0x11B (R83). -/
def xtime (a : Byte) : Byte := if a.getLsbD 7 then (a <<< 1) ^^^ 0x1B#8 else a <<< 1

/-- `a • b`, field multiplication modulo 0x11B: for each bit of `b`, lowest first, `p` takes in `a` where the bit is 1,
and `a` is multiplied by `x` (R84). -/
def gmul (a b : Byte) : Byte :=
  ((List.range 8).foldl (fun (p, a) i => (if b.getLsbD i then p ^^^ a else p, xtime a)) (0x00#8, a)).1

/-! ## The S-box -/

/-- The table of `SBOX`, one row for each high hex digit (R86). -/
def sboxRows : List (List Byte) :=
  [[0x63#8, 0x7c#8, 0x77#8, 0x7b#8, 0xf2#8, 0x6b#8, 0x6f#8, 0xc5#8, 0x30#8, 0x01#8, 0x67#8, 0x2b#8, 0xfe#8, 0xd7#8, 0xab#8, 0x76#8],
   [0xca#8, 0x82#8, 0xc9#8, 0x7d#8, 0xfa#8, 0x59#8, 0x47#8, 0xf0#8, 0xad#8, 0xd4#8, 0xa2#8, 0xaf#8, 0x9c#8, 0xa4#8, 0x72#8, 0xc0#8],
   [0xb7#8, 0xfd#8, 0x93#8, 0x26#8, 0x36#8, 0x3f#8, 0xf7#8, 0xcc#8, 0x34#8, 0xa5#8, 0xe5#8, 0xf1#8, 0x71#8, 0xd8#8, 0x31#8, 0x15#8],
   [0x04#8, 0xc7#8, 0x23#8, 0xc3#8, 0x18#8, 0x96#8, 0x05#8, 0x9a#8, 0x07#8, 0x12#8, 0x80#8, 0xe2#8, 0xeb#8, 0x27#8, 0xb2#8, 0x75#8],
   [0x09#8, 0x83#8, 0x2c#8, 0x1a#8, 0x1b#8, 0x6e#8, 0x5a#8, 0xa0#8, 0x52#8, 0x3b#8, 0xd6#8, 0xb3#8, 0x29#8, 0xe3#8, 0x2f#8, 0x84#8],
   [0x53#8, 0xd1#8, 0x00#8, 0xed#8, 0x20#8, 0xfc#8, 0xb1#8, 0x5b#8, 0x6a#8, 0xcb#8, 0xbe#8, 0x39#8, 0x4a#8, 0x4c#8, 0x58#8, 0xcf#8],
   [0xd0#8, 0xef#8, 0xaa#8, 0xfb#8, 0x43#8, 0x4d#8, 0x33#8, 0x85#8, 0x45#8, 0xf9#8, 0x02#8, 0x7f#8, 0x50#8, 0x3c#8, 0x9f#8, 0xa8#8],
   [0x51#8, 0xa3#8, 0x40#8, 0x8f#8, 0x92#8, 0x9d#8, 0x38#8, 0xf5#8, 0xbc#8, 0xb6#8, 0xda#8, 0x21#8, 0x10#8, 0xff#8, 0xf3#8, 0xd2#8],
   [0xcd#8, 0x0c#8, 0x13#8, 0xec#8, 0x5f#8, 0x97#8, 0x44#8, 0x17#8, 0xc4#8, 0xa7#8, 0x7e#8, 0x3d#8, 0x64#8, 0x5d#8, 0x19#8, 0x73#8],
   [0x60#8, 0x81#8, 0x4f#8, 0xdc#8, 0x22#8, 0x2a#8, 0x90#8, 0x88#8, 0x46#8, 0xee#8, 0xb8#8, 0x14#8, 0xde#8, 0x5e#8, 0x0b#8, 0xdb#8],
   [0xe0#8, 0x32#8, 0x3a#8, 0x0a#8, 0x49#8, 0x06#8, 0x24#8, 0x5c#8, 0xc2#8, 0xd3#8, 0xac#8, 0x62#8, 0x91#8, 0x95#8, 0xe4#8, 0x79#8],
   [0xe7#8, 0xc8#8, 0x37#8, 0x6d#8, 0x8d#8, 0xd5#8, 0x4e#8, 0xa9#8, 0x6c#8, 0x56#8, 0xf4#8, 0xea#8, 0x65#8, 0x7a#8, 0xae#8, 0x08#8],
   [0xba#8, 0x78#8, 0x25#8, 0x2e#8, 0x1c#8, 0xa6#8, 0xb4#8, 0xc6#8, 0xe8#8, 0xdd#8, 0x74#8, 0x1f#8, 0x4b#8, 0xbd#8, 0x8b#8, 0x8a#8],
   [0x70#8, 0x3e#8, 0xb5#8, 0x66#8, 0x48#8, 0x03#8, 0xf6#8, 0x0e#8, 0x61#8, 0x35#8, 0x57#8, 0xb9#8, 0x86#8, 0xc1#8, 0x1d#8, 0x9e#8],
   [0xe1#8, 0xf8#8, 0x98#8, 0x11#8, 0x69#8, 0xd9#8, 0x8e#8, 0x94#8, 0x9b#8, 0x1e#8, 0x87#8, 0xe9#8, 0xce#8, 0x55#8, 0x28#8, 0xdf#8],
   [0x8c#8, 0xa1#8, 0x89#8, 0x0d#8, 0xbf#8, 0xe6#8, 0x42#8, 0x68#8, 0x41#8, 0x99#8, 0x2d#8, 0x0f#8, 0xb0#8, 0x54#8, 0xbb#8, 0x16#8]]

/-- The table of `INV_SBOX`, one row for each high hex digit (R87). -/
def invSboxRows : List (List Byte) :=
  [[0x52#8, 0x09#8, 0x6a#8, 0xd5#8, 0x30#8, 0x36#8, 0xa5#8, 0x38#8, 0xbf#8, 0x40#8, 0xa3#8, 0x9e#8, 0x81#8, 0xf3#8, 0xd7#8, 0xfb#8],
   [0x7c#8, 0xe3#8, 0x39#8, 0x82#8, 0x9b#8, 0x2f#8, 0xff#8, 0x87#8, 0x34#8, 0x8e#8, 0x43#8, 0x44#8, 0xc4#8, 0xde#8, 0xe9#8, 0xcb#8],
   [0x54#8, 0x7b#8, 0x94#8, 0x32#8, 0xa6#8, 0xc2#8, 0x23#8, 0x3d#8, 0xee#8, 0x4c#8, 0x95#8, 0x0b#8, 0x42#8, 0xfa#8, 0xc3#8, 0x4e#8],
   [0x08#8, 0x2e#8, 0xa1#8, 0x66#8, 0x28#8, 0xd9#8, 0x24#8, 0xb2#8, 0x76#8, 0x5b#8, 0xa2#8, 0x49#8, 0x6d#8, 0x8b#8, 0xd1#8, 0x25#8],
   [0x72#8, 0xf8#8, 0xf6#8, 0x64#8, 0x86#8, 0x68#8, 0x98#8, 0x16#8, 0xd4#8, 0xa4#8, 0x5c#8, 0xcc#8, 0x5d#8, 0x65#8, 0xb6#8, 0x92#8],
   [0x6c#8, 0x70#8, 0x48#8, 0x50#8, 0xfd#8, 0xed#8, 0xb9#8, 0xda#8, 0x5e#8, 0x15#8, 0x46#8, 0x57#8, 0xa7#8, 0x8d#8, 0x9d#8, 0x84#8],
   [0x90#8, 0xd8#8, 0xab#8, 0x00#8, 0x8c#8, 0xbc#8, 0xd3#8, 0x0a#8, 0xf7#8, 0xe4#8, 0x58#8, 0x05#8, 0xb8#8, 0xb3#8, 0x45#8, 0x06#8],
   [0xd0#8, 0x2c#8, 0x1e#8, 0x8f#8, 0xca#8, 0x3f#8, 0x0f#8, 0x02#8, 0xc1#8, 0xaf#8, 0xbd#8, 0x03#8, 0x01#8, 0x13#8, 0x8a#8, 0x6b#8],
   [0x3a#8, 0x91#8, 0x11#8, 0x41#8, 0x4f#8, 0x67#8, 0xdc#8, 0xea#8, 0x97#8, 0xf2#8, 0xcf#8, 0xce#8, 0xf0#8, 0xb4#8, 0xe6#8, 0x73#8],
   [0x96#8, 0xac#8, 0x74#8, 0x22#8, 0xe7#8, 0xad#8, 0x35#8, 0x85#8, 0xe2#8, 0xf9#8, 0x37#8, 0xe8#8, 0x1c#8, 0x75#8, 0xdf#8, 0x6e#8],
   [0x47#8, 0xf1#8, 0x1a#8, 0x71#8, 0x1d#8, 0x29#8, 0xc5#8, 0x89#8, 0x6f#8, 0xb7#8, 0x62#8, 0x0e#8, 0xaa#8, 0x18#8, 0xbe#8, 0x1b#8],
   [0xfc#8, 0x56#8, 0x3e#8, 0x4b#8, 0xc6#8, 0xd2#8, 0x79#8, 0x20#8, 0x9a#8, 0xdb#8, 0xc0#8, 0xfe#8, 0x78#8, 0xcd#8, 0x5a#8, 0xf4#8],
   [0x1f#8, 0xdd#8, 0xa8#8, 0x33#8, 0x88#8, 0x07#8, 0xc7#8, 0x31#8, 0xb1#8, 0x12#8, 0x10#8, 0x59#8, 0x27#8, 0x80#8, 0xec#8, 0x5f#8],
   [0x60#8, 0x51#8, 0x7f#8, 0xa9#8, 0x19#8, 0xb5#8, 0x4a#8, 0x0d#8, 0x2d#8, 0xe5#8, 0x7a#8, 0x9f#8, 0x93#8, 0xc9#8, 0x9c#8, 0xef#8],
   [0xa0#8, 0xe0#8, 0x3b#8, 0x4d#8, 0xae#8, 0x2a#8, 0xf5#8, 0xb0#8, 0xc8#8, 0xeb#8, 0xbb#8, 0x3c#8, 0x83#8, 0x53#8, 0x99#8, 0x61#8],
   [0x17#8, 0x2b#8, 0x04#8, 0x7e#8, 0xba#8, 0x77#8, 0xd6#8, 0x26#8, 0xe1#8, 0x69#8, 0x14#8, 0x63#8, 0x55#8, 0x21#8, 0x0c#8, 0x7d#8]]

/-- The entry of a table for a byte: the row is its high hex digit, the column its low hex digit (R86). -/
def tableEntry (rows : List (List Byte)) (a : Byte) : Byte := (rows.getD (a.toNat / 16) []).getD (a.toNat % 16) 0x00#8

/-- `SBOX(a)`, read from the table of R86, which the spec says equals R85 (assumption log 17). -/
def sbox (a : Byte) : Byte := tableEntry sboxRows a

/-- `INV_SBOX(a)` (R87). -/
def invSbox (a : Byte) : Byte := tableEntry invSboxRows a

/-! ## Round transformations -/

/-- `f` applied to each byte of a column. -/
def mapColumn (f : Byte → Byte) (c : Column) : Column := ⟨f c.b0, f c.b1, f c.b2, f c.b3⟩

/-- `SubBytes(s)` (R88). -/
def subBytes (s : Block) : Block := ⟨mapColumn sbox s.c0, mapColumn sbox s.c1, mapColumn sbox s.c2, mapColumn sbox s.c3⟩

/-- `InvSubBytes(s)` (R88). -/
def invSubBytes (s : Block) : Block :=
  ⟨mapColumn invSbox s.c0, mapColumn invSbox s.c1, mapColumn invSbox s.c2, mapColumn invSbox s.c3⟩

/-- `ShiftRows(s)`: `s'[r][c] = s[r][(c + r) mod 4]` (R89). -/
def shiftRows (s : Block) : Block :=
  ⟨⟨s.c0.b0, s.c1.b1, s.c2.b2, s.c3.b3⟩, ⟨s.c1.b0, s.c2.b1, s.c3.b2, s.c0.b3⟩,
   ⟨s.c2.b0, s.c3.b1, s.c0.b2, s.c1.b3⟩, ⟨s.c3.b0, s.c0.b1, s.c1.b2, s.c2.b3⟩⟩

/-- `InvShiftRows(s)`: `s'[r][(c + r) mod 4] = s[r][c]` (R89). -/
def invShiftRows (s : Block) : Block :=
  ⟨⟨s.c0.b0, s.c3.b1, s.c2.b2, s.c1.b3⟩, ⟨s.c1.b0, s.c0.b1, s.c3.b2, s.c2.b3⟩,
   ⟨s.c2.b0, s.c1.b1, s.c0.b2, s.c3.b3⟩, ⟨s.c3.b0, s.c2.b1, s.c1.b2, s.c0.b3⟩⟩

/-- `MixColumns` on one column (R90). -/
def mixColumn (a : Column) : Column :=
  ⟨gmul 0x02#8 a.b0 ^^^ gmul 0x03#8 a.b1 ^^^ a.b2 ^^^ a.b3,
   a.b0 ^^^ gmul 0x02#8 a.b1 ^^^ gmul 0x03#8 a.b2 ^^^ a.b3,
   a.b0 ^^^ a.b1 ^^^ gmul 0x02#8 a.b2 ^^^ gmul 0x03#8 a.b3,
   gmul 0x03#8 a.b0 ^^^ a.b1 ^^^ a.b2 ^^^ gmul 0x02#8 a.b3⟩

/-- `MixColumns(s)` (R90). -/
def mixColumns (s : Block) : Block := ⟨mixColumn s.c0, mixColumn s.c1, mixColumn s.c2, mixColumn s.c3⟩

/-- `InvMixColumns` on one column (R91). -/
def invMixColumn (a : Column) : Column :=
  ⟨gmul 0x0E#8 a.b0 ^^^ gmul 0x0B#8 a.b1 ^^^ gmul 0x0D#8 a.b2 ^^^ gmul 0x09#8 a.b3,
   gmul 0x09#8 a.b0 ^^^ gmul 0x0E#8 a.b1 ^^^ gmul 0x0B#8 a.b2 ^^^ gmul 0x0D#8 a.b3,
   gmul 0x0D#8 a.b0 ^^^ gmul 0x09#8 a.b1 ^^^ gmul 0x0E#8 a.b2 ^^^ gmul 0x0B#8 a.b3,
   gmul 0x0B#8 a.b0 ^^^ gmul 0x0D#8 a.b1 ^^^ gmul 0x09#8 a.b2 ^^^ gmul 0x0E#8 a.b3⟩

/-- `InvMixColumns(s)` (R91). -/
def invMixColumns (s : Block) : Block := ⟨invMixColumn s.c0, invMixColumn s.c1, invMixColumn s.c2, invMixColumn s.c3⟩

/-- `AddRoundKey(s, k)`: on blocks, `s xor k` (R92). -/
def addRoundKey (s k : Block) : Block := xorBlock s k

/-! ## Key expansion -/

/-- `rc_j`: `rc_1 = 0x01`, `rc_j = xtime(rc_(j-1))` for `j` from 2 to 10 (R93). No rule uses index 0. -/
def rc (j : Nat) : Byte :=
  match j with
  | 0 => 0x00#8
  | 1 => 0x01#8
  | k + 2 => xtime (rc (k + 1))

/-- `Rcon[j] = [rc_j, 0x00, 0x00, 0x00]` (R93). -/
def rcon (j : Nat) : Column := ⟨rc j, 0x00#8, 0x00#8, 0x00#8⟩

/-- `RotWord` (R94). -/
def rotWord (a : Column) : Column := ⟨a.b1, a.b2, a.b3, a.b0⟩

/-- `SubWord` (R94). -/
def subWord (a : Column) : Column := mapColumn sbox a

/-- `RK[j]` from `RK[j-1]`, the words `w[4j]` to `w[4j+3]` of R95: `w[4j]` takes in
`SubWord(RotWord(w[4j-1])) xor Rcon[j]`, each other word the word before it. -/
def nextRoundKey (j : Nat) (k : Block) : Block :=
  let w0 := xorColumn k.c0 (xorColumn (subWord (rotWord k.c3)) (rcon j))
  let w1 := xorColumn k.c1 w0
  let w2 := xorColumn k.c2 w1
  let w3 := xorColumn k.c3 w2
  ⟨w0, w1, w2, w3⟩

/-- `KeyExpansion(K)` (R95), four words at a time. -/
def keyExpansion (k : Block) : RoundKeys :=
  let k1 := nextRoundKey 1 k
  let k2 := nextRoundKey 2 k1
  let k3 := nextRoundKey 3 k2
  let k4 := nextRoundKey 4 k3
  let k5 := nextRoundKey 5 k4
  let k6 := nextRoundKey 6 k5
  let k7 := nextRoundKey 7 k6
  let k8 := nextRoundKey 8 k7
  let k9 := nextRoundKey 9 k8
  let k10 := nextRoundKey 10 k9
  ⟨k, k1, k2, k3, k4, k5, k6, k7, k8, k9, k10⟩

/-! ## Cipher and inverse cipher -/

/-- RK[1] to RK[9], the keys of the full rounds (R96). -/
def innerKeys (rk : RoundKeys) : List Block := [rk.k1, rk.k2, rk.k3, rk.k4, rk.k5, rk.k6, rk.k7, rk.k8, rk.k9]

/-- One of rounds 1 to 9 of the cipher (R96). -/
def encRound (s k : Block) : Block := addRoundKey (mixColumns (shiftRows (subBytes s))) k

/-- One of rounds 9 to 1 of the inverse cipher (R97). -/
def decRound (s k : Block) : Block := invMixColumns (addRoundKey (invSubBytes (invShiftRows s)) k)

/-- `Cipher(RK, in)` (R96). -/
def cipher (rk : RoundKeys) (input : Block) : Block :=
  let s := (innerKeys rk).foldl encRound (addRoundKey input rk.k0)
  addRoundKey (shiftRows (subBytes s)) rk.k10

/-- `InvCipher(RK, in)` (R97). -/
def invCipher (rk : RoundKeys) (input : Block) : Block :=
  let s := (innerKeys rk).reverse.foldl decRound (addRoundKey input rk.k10)
  addRoundKey (invSubBytes (invShiftRows s)) rk.k0

end Sys2Proof.Machine
end

