-- ==== Sys2Proof/Machine/Ecb.lean ====
section
/-! DEFINITION. Sys2Proof/Machine/Ecb.lean: the AES core's commands, ECB.ENC and ECB.DEC (R99, R100). -/
namespace Sys2Proof.Machine

/-- What a command that uses RK does first: it ends with INVALID_KEY where no key is loaded (R24, R126), else it goes on
with `use`. -/
def withKey (s : State) (use : State) : Host.Outcome State Fault Refusal :=
  if s.keyValid then .next use else .next (s.raiseError .invalidKey)

/-- ECB.ENC (R99): DOUT <- Cipher(RK, DIN). -/
def execEcbEnc (s : State) : Host.Outcome State Fault Refusal :=
  withKey s { s with dout := cipher s.rk s.din }.complete

/-- ECB.DEC (R100): DOUT <- InvCipher(RK, DIN). -/
def execEcbDec (s : State) : Host.Outcome State Fault Refusal :=
  withKey s { s with dout := invCipher s.rk s.din }.complete

end Sys2Proof.Machine
end

