-- ==== Sys2Proof/Machine/Cbc.lean ====
section
/-! DEFINITION. Sys2Proof/Machine/Cbc.lean: the CBC mode controller: chaining, CHAIN.INIT, CBC.ENC.BLK, CBC.DEC.BLK (R105-R110). -/
namespace Sys2Proof.Machine

/-- The chaining of R105 over a list of blocks: the ciphertext blocks, and the last of them (`prev` where there is none). -/
def cbcEncryptBlocks (rk : RoundKeys) (prev : Block) (ps : List Block) : List Block × Block :=
  match ps with
  | [] => ([], prev)
  | p :: rest =>
    let c := cipher rk (xorBlock p prev)
    let r := cbcEncryptBlocks rk c rest
    (c :: r.1, r.2)

/-- The chaining of R106 over a list of blocks: the decrypted blocks, and the last ciphertext block. -/
def cbcDecryptBlocks (rk : RoundKeys) (prev : Block) (cs : List Block) : List Block × Block :=
  match cs with
  | [] => ([], prev)
  | c :: rest =>
    let r := cbcDecryptBlocks rk c rest
    (xorBlock (invCipher rk c) prev :: r.1, r.2)

/-- `CbcEncrypt(RK, V, P)`, for `len(P)` a multiple of 16 (R105). -/
def cbcEncrypt (rk : RoundKeys) (v : Block) (P : Bytes) : Bytes × Block :=
  let r := cbcEncryptBlocks rk v (blocksOfBytes (P.length / 16) P)
  (bytesOfBlocks r.1, r.2)

/-- `CbcDecrypt(RK, V, C)`, for `len(C)` a multiple of 16 (R106). -/
def cbcDecrypt (rk : RoundKeys) (v : Block) (C : Bytes) : Bytes × Block :=
  let r := cbcDecryptBlocks rk v (blocksOfBytes (C.length / 16) C)
  (bytesOfBlocks r.1, r.2)

/-- CHAIN.INIT (R108): CHAIN <- IV; it needs no key. -/
def execChainInit (s : State) : Host.Outcome State Fault Refusal := .next { s with chain := iv }.complete

/-- CBC.ENC.BLK (R109): Y <- Cipher(RK, DIN xor CHAIN), with the old CHAIN; DOUT <- Y, CHAIN <- Y. -/
def execCbcEncBlk (s : State) : Host.Outcome State Fault Refusal :=
  let y := cipher s.rk (xorBlock s.din s.chain)
  withKey s { s with dout := y, chain := y }.complete

/-- CBC.DEC.BLK (R110): DOUT <- InvCipher(RK, DIN) xor CHAIN, with the old CHAIN; CHAIN <- DIN. -/
def execCbcDecBlk (s : State) : Host.Outcome State Fault Refusal :=
  withKey s { s with dout := xorBlock (invCipher s.rk s.din) s.chain, chain := s.din }.complete

end Sys2Proof.Machine
end

