-- ==== Sys2Proof/Machine/Control.lean ====
section
/-! DEFINITION. Sys2Proof/Machine/Control.lean: the control family, NOP, and the completion of an illegal word (R80, R128). -/
namespace Sys2Proof.Machine

/-- NOP (R80): `complete`. -/
def execNop (s : State) : Host.Outcome State Fault Refusal := .next s.complete

/-- The completion of a word that decodes to no command: ERR <- ILLEGAL_CMD, and no other state changes (R128). -/
def completeIllegal (s : State) : Host.Outcome State Fault Refusal := .next (s.raiseError .illegalCmd)

end Sys2Proof.Machine
end

