-- ==== Sys2Proof/Machine/Key.lean ====
section
/-! DEFINITION. Sys2Proof/Machine/Key.lean: the key path, KEYLOAD and KEYCLR (R101-R103). -/
namespace Sys2Proof.Machine

/-- `Derive(P) = P ++ zeros(16 - len(P))`, for `len(P) ≤ 16` (R101). -/
def deriveKey (P : Bytes) : Block := blockOfBytes (P ++ zeros (16 - P.length))

/-- The writes of a KEYLOAD that succeeds: KEY <- K, RK <- KeyExpansion(K), KEY_VALID <- 1 (R102). -/
def State.loadKey (s : State) (k : Block) : State := { s with key := k, rk := keyExpansion k, keyValid := true }

/-- KEYLOAD KLEN (R102): KEY_SIZE where KLEN > 16, else the key is KEYIN[0..KLEN) filled up with zero bytes. -/
def execKeyload (klen : Nat) (s : State) : Host.Outcome State Fault Refusal :=
  if 16 < klen then .next (s.raiseError .keySize)
  else .next (s.loadKey (deriveKey ((blockBytesOf s.keyin).take klen))).complete

/-- KEYCLR (R103): KEY, every RK[r] and KEYIN become zeros, KEY_VALID becomes 0. -/
def execKeyclr (s : State) : Host.Outcome State Fault Refusal :=
  .next { s with key := zeroBlock, rk := zeroKeys, keyin := zeroBlock, keyValid := false }.complete

end Sys2Proof.Machine
end

