-- ==== Sys2Proof/Machine/Padding.lean ====
section
/-! DEFINITION. Sys2Proof/Machine/Padding.lean: the padder and the unpadder: Pad, Trim, Unpad, PAD and UNPAD (R112-R118). -/
namespace Sys2Proof.Machine

/-- `N = 16 - (len(P) mod 16)`, from 1 to 16 (R112). -/
def padCount (len : Nat) : Nat := 16 - len % 16

/-- `Pad(P) = P ++ rep(N, N)` (R112). -/
def padBytes (P : Bytes) : Bytes := P ++ repByte (padCount P.length) (BitVec.ofNat 8 (padCount P.length))

/-- Is it a NUL byte? -/
def isNul (b : Byte) : Bool := b == 0x00#8

/-- Removes the longest prefix made only of 0x00 bytes (R114). -/
def trimLeading (R : Bytes) : Bytes := R.dropWhile isNul

/-- Removes the longest suffix made only of 0x00 bytes (R114). -/
def trimTrailing (R : Bytes) : Bytes := (R.reverse.dropWhile isNul).reverse

/-- `Trim(R, lead, trail)`: the trailing NUL bytes first, then the leading ones, each where its bit is 1 (R114). -/
def trim (R : Bytes) (lead trail : Bool) : Bytes :=
  let r := if trail then trimTrailing R else R
  if lead then trimLeading r else r

/-- `Unpad(Q, lead, trail)`, for `len(Q)` a positive multiple of 16: the last byte is N, DATA_SIZE where it is not in
[1, 16], else N bytes are stripped and the rest is trimmed (R115). -/
def unpadBytes (Q : Bytes) (lead trail : Bool) : Except ErrCode Bytes :=
  let n := (Q.getLastD 0x00#8).toNat
  if n < 1 ∨ 16 < n then .error .dataSize
  else .ok (trim (Q.take (Q.length - n)) lead trail)

/-- PAD (R117): BUFFER_SIZE where MSG_LEN ≥ BUF_BYTES, else OBUF <- Pad(IBUF[0..MSG_LEN)), OUT_LEN <- its length. It
needs no key. -/
def execPad (s : State) : Host.Outcome State Fault Refusal :=
  if s.tooLongToPad then .next (s.raiseError .bufferSize)
  else .next (s.output (padBytes s.input)).complete

/-- UNPAD (R118): BUFFER_SIZE where MSG_LEN is no positive multiple of 16 or exceeds BUF_BYTES, then DATA_SIZE where the
last byte is no pad count, else OBUF and OUT_LEN get the stripped and trimmed message. It needs no key. -/
def execUnpad (s : State) : Host.Outcome State Fault Refusal :=
  if s.badCipherLength then .next (s.raiseError .bufferSize)
  else match unpadBytes s.input s.trimLead s.trimTrail with
    | .error e => .next (s.raiseError e)
    | .ok R => .next (s.output R).complete

end Sys2Proof.Machine
end

