-- ==== Sys2Proof/Machine/Message.lean ====
section
/-! DEFINITION. Sys2Proof/Machine/Message.lean: the message commands ENC.MSG and DEC.MSG (R119, R120). -/
namespace Sys2Proof.Machine

/-- ENC.MSG (R119): BUFFER_SIZE where MSG_LEN ≥ BUF_BYTES, then INVALID_KEY where no key is loaded, else the padded
message is CBC-encrypted from IV into OBUF; OUT_LEN gets its length and CHAIN its last block. -/
def execEncMsg (s : State) : Host.Outcome State Fault Refusal :=
  if s.tooLongToPad then .next (s.raiseError .bufferSize)
  else
    let r := cbcEncrypt s.rk iv (padBytes s.input)
    withKey s { s.output r.1 with chain := r.2 }.complete

/-- DEC.MSG (R120): BUFFER_SIZE where MSG_LEN is no positive multiple of 16 or exceeds BUF_BYTES, then INVALID_KEY where
no key is loaded, then DATA_SIZE where the decrypted message ends in no pad count, else OBUF and OUT_LEN get the stripped
and trimmed plaintext and CHAIN the last ciphertext block. -/
def execDecMsg (s : State) : Host.Outcome State Fault Refusal :=
  if s.badCipherLength then .next (s.raiseError .bufferSize)
  else
    let r := cbcDecrypt s.rk iv s.input
    withKey s (match unpadBytes r.1 s.trimLead s.trimTrail with
      | .error e => s.raiseError e
      | .ok R => { s.output R with chain := r.2 }.complete)

end Sys2Proof.Machine
end

