-- ==== Sys2Proof/Machine/Dispatch.lean ====
section
/-! DEFINITION. Sys2Proof/Machine/Dispatch.lean: which meaning each command has; `Exec` of R75 with the completion in it. -/
namespace Sys2Proof.Machine

/-- What a command does when it completes: its writes, and the completion bookkeeping (R75, R76). -/
def exec (i : Instr) (s : State) : Host.Outcome State Fault Refusal :=
  match i with
  | .nop => Sys2Proof.Machine.execNop s
  | .keyload klen => Sys2Proof.Machine.execKeyload klen s
  | .keyclr => Sys2Proof.Machine.execKeyclr s
  | .ecbEnc => Sys2Proof.Machine.execEcbEnc s
  | .ecbDec => Sys2Proof.Machine.execEcbDec s
  | .chainInit => Sys2Proof.Machine.execChainInit s
  | .cbcEncBlk => Sys2Proof.Machine.execCbcEncBlk s
  | .cbcDecBlk => Sys2Proof.Machine.execCbcDecBlk s
  | .pad => Sys2Proof.Machine.execPad s
  | .unpad => Sys2Proof.Machine.execUnpad s
  | .encMsg => Sys2Proof.Machine.execEncMsg s
  | .decMsg => Sys2Proof.Machine.execDecMsg s

end Sys2Proof.Machine
end

