-- ==== Sys2Proof/Machine/Reset.lean ====
section
/-! DEFINITION. Sys2Proof/Machine/Reset.lean: what the reset input does (R142, R143). -/
namespace Sys2Proof.Machine

/-- Every piece of state goes to the value of R42, a command in flight is discarded, and each byte of IBUF and OBUF is
drawn afresh (R142, R143, U2). The constants ID, CAP and IV survive (R142); so do the level of `rst_n` and the
model's own record of the outside world. DESIGN CHOICE: the bytes are drawn at each event in reset (assumption log 9). -/
def State.resetValues (s : State) : State :=
  { State.reset with
    base := s.base
    bufBytes := s.bufBytes
    ibuf := ⟨[], s.draws⟩
    obuf := ⟨[], s.draws + 1⟩
    rstN := s.rstN
    host := s.host
    reply := s.reply
    draws := s.draws + 2 }

/-- `rst_n` is driven to 0: the state takes its reset values (R142). -/
def State.assertReset (s : State) : State := { s.resetValues with rstN := false }

/-- `rst_n` rises: the state takes its reset values and ENCDEC runs again (R142). Where it was 1 already nothing rises (assumption log 9). -/
def State.releaseReset (s : State) : State := if s.rstN then s else { s.resetValues with rstN := true }

end Sys2Proof.Machine
end

