-- ==== Sys2Proof/Machine/Engine.lean ====
section
/-! DEFINITION. Sys2Proof/Machine/Engine.lean: the engine's step `Complete`, and one event of the outside world (R56, R71, R75, R142). -/
namespace Sys2Proof.Machine

/-- The completion of a command word: `Exec` of the command it decodes to, ILLEGAL_CMD where it decodes to none (R75). -/
def completeWord (w : Word) (s : State) : Host.Outcome State Fault Refusal :=
  match decode w with
  | .ok i => exec i s
  | .error _ => completeIllegal s

/-- The engine's turn: `Complete` where a command is in flight (R71, R75), else the idle engine holds its state (R141).
While `rst_n = 0` the state is held at its reset values (R142). -/
def engineTurn (s : State) : Host.Outcome State Fault Refusal :=
  if s.rstN then
    match s.pend with
    | some w => completeWord w s
    | none => .next s
  else .next s.resetValues

/-- One event of the outside world. -/
def hostEvent (e : HostEvent) (s : State) : Host.Outcome State Fault Refusal :=
  match e with
  | .read addr => hostTransaction addr (fun off => hostRead off s) s
  | .write addr data => hostTransaction addr (fun off => hostWrite off data s) s
  | .engine => engineTurn s
  | .resetAssert => .next s.assertReset
  | .resetRelease => .next s.releaseReset

/-- The next event of the schedule; once the schedule is used up every turn is the engine's, so that a command in flight
completes (R151's fairness). Assumption log 6. -/
def nextTurn (s : State) : Host.Outcome State Fault Refusal :=
  match s.host with
  | e :: rest => hostEvent e { s with host := rest }
  | [] => engineTurn s

end Sys2Proof.Machine
end

