-- ==== Sys2Proof/Machine/Step.lean ====
section
/-! DEFINITION. Sys2Proof/Machine/Step.lean: one step of the machine, and how the host places a command word. -/
namespace Sys2Proof.Machine

/-- One step: one turn of the host or of the engine, never both (R56, R71). -/
def step (s : State) : Host.Outcome State Fault Refusal := nextTurn s

/-- The state `s` with an opcode-table word in flight, as a CMD write leaves it (R38, R39), `rst_n` high and the engine's
turn next, so that the next step completes it. It stands for the host's CMD write (assumption log 8). -/
def State.withFetchWord (s : State) (nbits w : Nat) : State :=
  { s with pend := some (tableWord nbits w), rstN := true, host := .engine :: s.host }

end Sys2Proof.Machine
end

