-- ==== Sys2Proof/Machine/Asm.lean ====
section
/-! DEFINITION. Sys2Proof/Machine/Asm.lean: host programs: names, command syntax, pseudo-instructions and how a program runs (R68-R70).
What the text syntax leaves open is a DESIGN CHOICE (assumption log 18). -/
namespace Sys2Proof.Machine

/-! ## Numbers, register names and commands (R68, R69) -/

/-- The value of a digit in base 16. -/
def digitValue (c : Char) : Option Nat :=
  if '0' ≤ c ∧ c ≤ '9' then some (c.toNat - '0'.toNat)
  else if 'a' ≤ c ∧ c ≤ 'f' then some (c.toNat - 'a'.toNat + 10)
  else if 'A' ≤ c ∧ c ≤ 'F' then some (c.toNat - 'A'.toNat + 10)
  else none

/-- The number that digits of a base write, the highest first, after `acc`. -/
def digitsValue (base acc : Nat) (cs : List Char) : Option Nat :=
  match cs with
  | [] => some acc
  | c :: rest =>
    match digitValue c with
    | none => none
    | some d => if d < base then digitsValue base (acc * base + d) rest else none

/-- A decimal number: the operand of KEYLOAD (R69). -/
def decNumber (cs : List Char) : Option Nat := if cs.isEmpty then none else digitsValue 10 0 cs

/-- A hex number `0x..` (R11, R68). -/
def hexNumber (cs : List Char) : Option Nat :=
  match cs with
  | '0' :: 'x' :: d :: rest => digitsValue 16 0 (d :: rest)
  | _ => none

/-- A register name of R41. -/
structure RegName where
  name : List Char
  offset : Nat
  /-- A 16-byte register, whose words take a suffix 0 to 3. -/
  indexed : Bool
  /-- A buffer window, whose words are written NAME+offset. -/
  window : Bool
deriving DecidableEq, Repr

/-- The register names of R41. -/
def regNames : List RegName :=
  [⟨['I', 'D'], offId, false, false⟩, ⟨['C', 'A', 'P'], offCap, false, false⟩,
   ⟨['C', 'T', 'R', 'L'], offCtrl, false, false⟩, ⟨['S', 'T', 'A', 'T', 'U', 'S'], offStatus, false, false⟩,
   ⟨['C', 'M', 'D'], offCmd, false, false⟩, ⟨['M', 'S', 'G', '_', 'L', 'E', 'N'], offMsgLen, false, false⟩,
   ⟨['O', 'U', 'T', '_', 'L', 'E', 'N'], offOutLen, false, false⟩, ⟨['K', 'E', 'Y', 'I', 'N'], offKeyin, true, false⟩,
   ⟨['I', 'V'], offIv, true, false⟩, ⟨['C', 'H', 'A', 'I', 'N'], offChain, true, false⟩,
   ⟨['D', 'I', 'N'], offDin, true, false⟩, ⟨['D', 'O', 'U', 'T'], offDout, true, false⟩,
   ⟨['I', 'B', 'U', 'F'], offIbuf, false, true⟩, ⟨['O', 'B', 'U', 'F'], offObuf, false, true⟩]

/-- What is left of `cs` after the prefix `p`. -/
def afterPrefix (p cs : List Char) : Option (List Char) :=
  match p, cs with
  | [], rest => some rest
  | a :: p', c :: rest => if a = c then afterPrefix p' rest else none
  | _ :: _, [] => none

/-- The offset that a name with its suffix means: NAME, NAMEj with j from 0 to 3 for a 16-byte register, NAME+0x.. for a
window (R68). DESIGN CHOICE (assumption log 18): R68 gives a window suffix no bound, and any size is taken here, so
`IBUF+0x1000` is offset 0x2000 and `IBUF+0x3000` is past the register window; and R68 shows a window's name only with a
suffix, and the bare name is taken as the window's first word, so `IBUF` is offset 0x1000. -/
def RegName.resolve (r : RegName) (cs : List Char) : Option Nat :=
  match afterPrefix r.name cs with
  | none => none
  | some [] => if r.indexed then none else some r.offset
  | some ('+' :: rest) => if r.window then (hexNumber rest).map (r.offset + ·) else none
  | some rest =>
    if r.indexed then
      match decNumber rest with
      | some j => if j < 4 then some (r.offset + 4 * j) else none
      | none => none
    else none

/-- `OFF`: a hex number or a register name (R68). DESIGN CHOICE (assumption log 18): a hex number of 0x4000 or more is
refused, an OFF being a 14-bit offset (R44). -/
def asmOffset (cs : List Char) : Option Nat :=
  match hexNumber cs with
  | some n => if n < windowBytes then some n else none
  | none => regNames.findSome? (fun r => r.resolve cs)

/-- A command in assembler syntax: the mnemonic, and KEYLOAD's one decimal operand. Refused: KEYLOAD without an operand
in 0 to 31, and an operand on any other mnemonic (R69). -/
def asmCommand (name : List Char) (operand : Option (List Char)) : Option Word :=
  match opcodeRows.find? (fun r => r.mnemonic.toList == name) with
  | none => none
  | some r =>
    match operand with
    | none => if r.mask = 0xFFFFFFFF#32 then some r.value else none
    | some cs =>
      match decNumber cs with
      | some k => if r.mask ≠ 0xFFFFFFFF#32 ∧ (Instr.keyload k).wellFormed then some (encode (.keyload k)) else none
      | none => none

/-- `VALUE`: a hex number, a command, or `.word 0xXXXXXXXX` (R68, R69). DESIGN CHOICE (assumption log 18): `.word` takes
fewer or more hex digits than eight where they write a 32-bit value. -/
def asmValue (tokens : List (List Char)) : Option Word :=
  match tokens with
  | [one] =>
    match hexNumber one with
    | some n => if n < 2 ^ 32 then some (BitVec.ofNat 32 n) else none
    | none => asmCommand one none
  | [['.', 'w', 'o', 'r', 'd'], h] =>
    match hexNumber h with
    | some n => if n < 2 ^ 32 then some (BitVec.ofNat 32 n) else none
    | none => none
  | [name, operand] => asmCommand name (some operand)
  | _ => none

/-! ## Base instructions and pseudo-instructions (R68, R70) -/

/-- A line of a host program. -/
inductive AsmLine where
  /-- `wr OFF, VALUE` -/
  | wr (off : Nat) (v : Word)
  /-- `rd OFF -> EXPECTED`, or `rd OFF -> ?` with no expected value. -/
  | rd (off : Nat) (expected : Option Word)
  /-- `wait`, in the interleaving where the host polls STATUS `polls` times before the engine's step. -/
  | wait (polls : Nat)
  /-- `exec C` -/
  | exec (c : Word)
  /-- `ack` -/
  | ack
  /-- `check E` -/
  | check (e : Nat)
  /-- `ldkey "p"` -/
  | ldkey (p : Bytes)
  /-- `ldblk R, hex32` -/
  | ldblk (off : Nat) (b : Block)
  /-- `rdblk R -> hex32` -/
  | rdblk (off : Nat) (b : Block)
  /-- `ldmsg "bytes"` -/
  | ldmsg (msg : Bytes)
  /-- `rdmsg -> hex` -/
  | rdmsg (msg : Bytes)
deriving DecidableEq, Repr

/-- One step of a host program: an event, and for a read the bits the program looks at and what it expects there. -/
structure AsmOp where
  event : HostEvent
  mask : Word
  want : Word
deriving DecidableEq, Repr

/-- A write that must answer OKAY (R68). -/
def opWrite (base off : Nat) (v : Word) : AsmOp := ⟨.write (base + off) v, 0#32, 0#32⟩

/-- A read whose data must agree with `want` on the bits of `mask` (R68: `rd` states the value it expects). -/
def opRead (base off : Nat) (mask want : Word) : AsmOp := ⟨.read (base + off), mask, want⟩

/-- The engine's turn between two host transactions (R56). -/
def opEngine : AsmOp := ⟨.engine, 0#32, 0#32⟩

/-- `wr` of words 0 to 3 of 16 bytes from an offset on. -/
def writeBlockOps (base off : Nat) (b : Block) : List AsmOp :=
  [opWrite base off (packWord b.c0), opWrite base (off + 4) (packWord b.c1),
   opWrite base (off + 8) (packWord b.c2), opWrite base (off + 12) (packWord b.c3)]

/-- `rd` of words 0 to 3 of 16 bytes from an offset on. -/
def readBlockOps (base off : Nat) (b : Block) : List AsmOp :=
  let all := 0xFFFFFFFF#32
  [opRead base off all (packWord b.c0), opRead base (off + 4) all (packWord b.c1),
   opRead base (off + 8) all (packWord b.c2), opRead base (off + 12) all (packWord b.c3)]

/-- The number of words that hold `n` bytes, `ceil(n / 4)` (R17, R70). -/
def wordCount (n : Nat) : Nat := (n + 3) / 4

/-- The expansion of `wait`: polls of STATUS, the engine's step, and the poll that reads BUSY = 0. -/
def waitOps (base polls : Nat) : List AsmOp :=
  List.replicate polls (opRead base offStatus 0#32 0#32) ++ [opEngine, opRead base offStatus 1#32 0#32]

/-- The expansions of R70 and the two base instructions of R68. -/
def expand (base : Nat) (l : AsmLine) : List AsmOp :=
  match l with
  | .wr off v => [opWrite base off v]
  | .rd off (some v) => [opRead base off 0xFFFFFFFF#32 v]
  | .rd off none => [opRead base off 0#32 0#32]
  | .wait polls => waitOps base polls
  | .exec c => opWrite base offCmd c :: waitOps base 0
  | .ack => [opWrite base offStatus 0x0000000A#32]
  | .check e => [opRead base offStatus 0x00000F02#32 (BitVec.ofNat 32 (256 * e + 2))]
  | .ldkey p =>
    writeBlockOps base offKeyin (blockOfBytes (p.take 16 ++ zeros (16 - p.length)))
      ++ opWrite base offCmd (encode (.keyload p.length)) :: waitOps base 0
  | .ldblk off b => writeBlockOps base off b
  | .rdblk off b => readBlockOps base off b
  | .ldmsg msg =>
    let n := msg.length
    let padded := msg ++ zeros (4 * wordCount n - n)
    (List.range (wordCount n)).map (fun j => opWrite base (offIbuf + 4 * j) (packWord (columnAt padded (4 * j))))
      ++ [opWrite base offMsgLen (BitVec.ofNat 32 n)]
  | .rdmsg msg =>
    let n := msg.length
    let ones := repByte n 0xFF#8
    opRead base offOutLen 0xFFFFFFFF#32 (BitVec.ofNat 32 n)
      :: (List.range (wordCount n)).map (fun j =>
          opRead base (offObuf + 4 * j) (packWord (columnAt ones (4 * j))) (packWord (columnAt msg (4 * j))))

/-- Does a step's reply meet the program's expectation? The engine's turn answers nothing. -/
def AsmOp.meets (op : AsmOp) (reply : Option Reply) : Bool :=
  match op.event with
  | .engine => true
  | .resetAssert => true
  | .resetRelease => true
  | .read _ =>
    match reply with
    | some (.read _ d) => decide (d &&& op.mask = op.want)
    | _ => false
  | .write _ _ =>
    match reply with
    | some (.write .okay) => true
    | _ => false

/-- Runs the steps of a host program one after another; none where a step is refused or an expectation fails.
DESIGN CHOICE (assumption log 18): of the interleavings R151 admits, a program runs in the one its steps list: the engine
has a turn only where `wait`, `exec` or `ldkey` gives it one, and none between two bare `wr` and `rd` lines. -/
def runOps (ops : List AsmOp) (s : State) : Option State :=
  match ops with
  | [] => some s
  | op :: rest =>
    match step { s with host := [op.event] } with
    | .next t => if op.meets t.reply then runOps rest t else none
    | .fault _ => none
    | .refused _ => none

/-- Runs a host program on an instance (R21, R68). -/
def runProgram (p : List AsmLine) (s : State) : Option State := runOps (p.flatMap (expand s.base)) s

/-! ## The text of a line (R68-R70) -/

/-- A line without its comment: `;` starts one (R68). A `;` inside a quoted byte string starts none. -/
def dropComment (quoted : Bool) (cs : List Char) : List Char :=
  match cs with
  | [] => []
  | c :: rest =>
    if c = ';' ∧ ¬ quoted then [] else c :: dropComment (if c = '"' then !quoted else quoted) rest

/-- Splits a line at spaces and commas; a quoted byte string is one token, its opening quote kept. DESIGN CHOICE (assumption
log 18): R70 writes both quotes, and a string with no closing quote is taken to the end of the line, a `;` in it included. -/
def tokens (quoted : Bool) (word : List Char) (cs : List Char) : List (List Char) :=
  let flush := if word.isEmpty then [] else [word.reverse]
  match cs with
  | [] => flush
  | c :: rest =>
    if quoted then
      if c = '"' then word.reverse :: tokens false [] rest else tokens true (c :: word) rest
    else if c = '"' then flush ++ tokens true ['"'] rest
    else if c = ' ' ∨ c = ',' then flush ++ tokens false [] rest
    else tokens false (c :: word) rest

/-- The bytes that pairs of hex digits write, byte 0 first (R12). -/
def hexBytes (cs : List Char) : Option Bytes :=
  match cs with
  | [] => some []
  | [_] => none
  | a :: b :: rest =>
    match digitsValue 16 0 [a, b], hexBytes rest with
    | some v, some bs => some (BitVec.ofNat 8 v :: bs)
    | _, _ => none

/-- The bytes of a quoted string's characters, ASCII only. -/
def charBytes (cs : List Char) : Option Bytes :=
  match cs with
  | [] => some []
  | c :: rest =>
    match charBytes rest with
    | some bs => if c.toNat < 128 then some (BitVec.ofNat 8 c.toNat :: bs) else none
    | none => none

/-- 16 bytes written as 32 hex digits (R12). -/
def hexBlockText (cs : List Char) : Option Block :=
  match hexBytes cs with
  | some bs => if bs.length = 16 then some (blockOfBytes bs) else none
  | none => none

/-- The offset of word 0 of a 16-byte register, written by its bare name: the R of `ldblk R` and `rdblk R` (R70). -/
def blockRegister (cs : List Char) : Option Nat :=
  regNames.findSome? (fun r => if r.indexed ∧ r.name = cs then some r.offset else none)

/-- One error code in decimal: the E of `check E`. -/
def checkCode (cs : List Char) : Option Nat :=
  match decNumber cs with
  | some e => if e < 16 then some e else none
  | none => none

/-- The line that a list of tokens writes. -/
def parseTokens (ts : List (List Char)) : Option AsmLine :=
  match ts with
  | ['w', 'r'] :: off :: value =>
    match asmOffset off, asmValue value with
    | some o, some v => some (.wr o v)
    | _, _ => none
  | [['r', 'd'], off, ['-', '>'], ['?']] => (asmOffset off).map (fun o => .rd o none)
  | [['r', 'd'], off, ['-', '>'], value] =>
    match asmOffset off, asmValue [value] with
    | some o, some v => some (.rd o (some v))
    | _, _ => none
  | [['w', 'a', 'i', 't']] => some (.wait 0)
  | ['e', 'x', 'e', 'c'] :: command => (asmValue command).map .exec
  | [['a', 'c', 'k']] => some .ack
  | [['c', 'h', 'e', 'c', 'k'], e] => (checkCode e).map .check
  | [['l', 'd', 'k', 'e', 'y'], '"' :: p] =>
    match charBytes p with
    | some bs => if bs.length ≤ 31 then some (.ldkey bs) else none
    | none => none
  | [['l', 'd', 'b', 'l', 'k'], r, h] =>
    match blockRegister r, hexBlockText h with
    | some o, some b => if o = offDin then some (.ldblk o b) else none
    | _, _ => none
  | [['r', 'd', 'b', 'l', 'k'], r, ['-', '>'], h] =>
    match blockRegister r, hexBlockText h with
    | some o, some b => if o = offDout ∨ o = offChain ∨ o = offIv then some (.rdblk o b) else none
    | _, _ => none
  | [['l', 'd', 'm', 's', 'g'], '"' :: m] => (charBytes m).map .ldmsg
  | [['l', 'd', 'm', 's', 'g'], 'x' :: '\'' :: m] =>
    if m.getLast? = some '\'' then (hexBytes m.dropLast).map .ldmsg else none
  | [['r', 'd', 'm', 's', 'g'], ['-', '>']] => some (.rdmsg [])
  | [['r', 'd', 'm', 's', 'g'], ['-', '>'], h] => (hexBytes h).map .rdmsg
  | _ => none

/-- The line that a text writes (R68); none where it is no line of the syntax. A blank line is not one. -/
def parseLine (text : String) : Option AsmLine := parseTokens (tokens false [] (dropComment false text.toList))

end Sys2Proof.Machine
end

