-- ==== Sys2Proof/Safety.lean ====
section
/-! DEFINITION. Sys2Proof/Safety.lean: the terms that claims use: runs, the invariant of the machine, safe schedules, and the error a command ends with. -/
namespace Sys2Proof.Machine

/-- `n` steps, stopping at the first fault or refusal. -/
def runSteps (n : Nat) (s : State) : Host.Outcome State Fault Refusal := Host.Core.run Sys2Proof.core n s

/-- The machine's invariant: what the spec says holds of every state it reaches. -/
structure Inv (s : State) : Prop where
  /-- BUF_BYTES is a multiple of 16 from 16 to 4096 (R9). -/
  bufBytes_legal : Config.legalBufBytes s.bufBytes
  /-- ENCDEC_BASE is a multiple of 0x4000 (R9). -/
  base_legal : Config.legalBase s.base
  /-- Whenever KEY_VALID = 1, RK = KeyExpansion(KEY) (R23). -/
  keys_expanded : s.keyValid = true → s.rk = keyExpansion s.key
  /-- While no key is loaded KEY and RK are zeros (R22, R23, R103). -/
  keys_erased : s.keyValid = false → s.key = zeroBlock ∧ s.rk = zeroKeys
  /-- OUT_LEN ≤ BUF_BYTES (R33). -/
  outLen_le : s.outLen.toNat ≤ s.bufBytes
  /-- STATUS.ERR holds no code that no rule raises (R127). -/
  err_raised : s.err.raised = true
  /-- While BUSY = 1, DONE = 0 and ERR = 0 (R37, R134). -/
  busy_clear : s.busy = true → s.done = false ∧ s.err = .ok
  /-- IBUF is in canonical form. -/
  ibuf_wf : s.ibuf.wf
  /-- IBUF has the indexes [0, BUF_BYTES) (R30). -/
  ibuf_within : s.ibuf.within s.bufBytes
  /-- OBUF's determined bytes are exactly OBUF[0..OUT_LEN) (R33, R148). -/
  obuf_determined : s.obuf.cells.map Prod.fst = List.range s.outLen.toNat
  /-- While `rst_n = 0` no command is in flight and every register is at its reset value (R142). -/
  reset_held : s.rstN = false →
    s.pend = none ∧ s.keyValid = false ∧ s.keyin = zeroBlock ∧ s.chain = iv ∧ s.din = zeroBlock ∧ s.dout = zeroBlock ∧
    s.msgLen = 0#16 ∧ s.outLen = 0#16 ∧ s.ie = false ∧ s.trimTrail = true ∧ s.trimLead = true ∧ s.done = false ∧
    s.ovr = false ∧ s.err = .ok ∧ s.ibuf.cells = []

/-- Does an address lie outside the register window of an instance (R44)? -/
def outsideWindow (base addr : Nat) : Bool := (windowOffset base addr).isNone

/-- A schedule that issues no transaction to ENCDEC while `rst_n = 0`, from the level `high` of `rst_n` on (R142, U9). -/
def keepsOffReset (base : Nat) (high : Bool) (events : List HostEvent) : Bool :=
  match events with
  | [] => true
  | .read addr :: rest => (high || outsideWindow base addr) && keepsOffReset base high rest
  | .write addr _ :: rest => (high || outsideWindow base addr) && keepsOffReset base high rest
  | .engine :: rest => keepsOffReset base high rest
  | .resetAssert :: rest => keepsOffReset base false rest
  | .resetRelease :: rest => keepsOffReset base true rest

/-- A safe state: its schedule keeps off the bus while reset is asserted, so no step refuses. -/
def Safe (s : State) : Bool := keepsOffReset s.base s.rstN s.host

/-- Is an event a bus transaction? -/
def HostEvent.isTransaction (e : HostEvent) : Bool :=
  match e with
  | .read _ => true
  | .write _ _ => true
  | .engine => false
  | .resetAssert => false
  | .resetRelease => false

/-- The next turn is the engine's (R56, R71). -/
def State.engineNext (s : State) : Prop := s.host = [] ∨ ∃ rest, s.host = .engine :: rest

/-- The next turn is the host's, an aligned bus write of `v` to an offset from `lo` up to but not at `hi` (R44, R73). -/
def State.writeNext (s : State) (lo hi : Nat) (v : Word) : Prop :=
  ∃ off rest, lo ≤ off ∧ off < hi ∧ off % 4 = 0 ∧ s.host = .write (s.base + off) v :: rest

/-- Does a command use RK, and so need a loaded key (R126, code 4)? -/
def usesKey (i : Instr) : Bool :=
  match i with
  | .ecbEnc => true
  | .ecbDec => true
  | .cbcEncBlk => true
  | .cbcDecBlk => true
  | .encMsg => true
  | .decMsg => true
  | .nop => false
  | .keyload _ => false
  | .keyclr => false
  | .chainInit => false
  | .pad => false
  | .unpad => false

/-- The length condition of a command's BUFFER_SIZE error (R126, code 1). -/
def badLength (i : Instr) (s : State) : Prop :=
  match i with
  | .pad => s.bufBytes ≤ s.msgLen.toNat
  | .encMsg => s.bufBytes ≤ s.msgLen.toNat
  | .unpad => s.msgLen.toNat = 0 ∨ s.msgLen.toNat % 16 ≠ 0 ∨ s.bufBytes < s.msgLen.toNat
  | .decMsg => s.msgLen.toNat = 0 ∨ s.msgLen.toNat % 16 ≠ 0 ∨ s.bufBytes < s.msgLen.toNat
  | .nop => False
  | .keyload _ => False
  | .keyclr => False
  | .ecbEnc => False
  | .ecbDec => False
  | .chainInit => False
  | .cbcEncBlk => False
  | .cbcDecBlk => False

/-- The pad byte N that a command's unpadder reads: the last byte of its input, for DEC.MSG after decryption
(R115, R126 code 3). -/
def padByte (i : Instr) (s : State) : Option Nat :=
  match i with
  | .unpad => some ((s.input.getLastD 0#8).toNat)
  | .decMsg => some (((cbcDecrypt s.rk iv s.input).1.getLastD 0#8).toNat)
  | .nop => none
  | .keyload _ => none
  | .keyclr => none
  | .ecbEnc => none
  | .ecbDec => none
  | .chainInit => none
  | .cbcEncBlk => none
  | .cbcDecBlk => none
  | .pad => none
  | .encMsg => none

/-- The passphrase length a command asks for: KEYLOAD's KLEN (R62). -/
def keyLength (i : Instr) : Nat :=
  match i with
  | .keyload klen => klen
  | .nop => 0
  | .keyclr => 0
  | .ecbEnc => 0
  | .ecbDec => 0
  | .chainInit => 0
  | .cbcEncBlk => 0
  | .cbcDecBlk => 0
  | .pad => 0
  | .unpad => 0
  | .encMsg => 0
  | .decMsg => 0

/-- A host's block stream (R111): for each block, DIN <- the block, the block command, read DOUT. The DOUT values, and the
state after the last. -/
def streamBlocks (i : Instr) (bs : List Block) (s : State) : Option (List Block × State) :=
  match bs with
  | [] => some ([], s)
  | b :: rest =>
    match exec i { s with din := b } with
    | .next t =>
      match streamBlocks i rest t with
      | some r => some (t.dout :: r.1, r.2)
      | none => none
    | .fault _ => none
    | .refused _ => none

end Sys2Proof.Machine
end

