-- ==== Sys2Proof/Certificates/Slice0/Obligations.lean ====
section
/-! DEFINITION. Sys2Proof/Certificates/Slice0/Obligations.lean: the statements for the provers. -/
open Sys2Proof Sys2Proof.Machine

/-! ## Encoding -/

/-- R61, R64, R67: decoding and encoding agree both ways, for every command and every word: a word decodes to a command
exactly where the command is well formed and the word is its encoding. -/
def Obligations.DecodeInvertsEncode : Prop :=
  ∀ (i : Instr) (w : Word), decode w = .ok i ↔ (i.wellFormed = true ∧ encode i = w)

/-- R64: the opcode table, row by row; a word decodes to the command of its row exactly when `(word AND mask) = match`; and
at most one row matches. -/
def Obligations.DecodeFollowsOpcodeMap : Prop :=
  opcodeRows.map (fun r => (r.mnemonic, r.value, r.mask)) =
    [("NOP", 0x00000000#32, 0xFFFFFFFF#32), ("KEYLOAD", 0x00000001#32, 0xFFFFE0FF#32),
     ("KEYCLR", 0x00000002#32, 0xFFFFFFFF#32), ("ECB.ENC", 0x00000003#32, 0xFFFFFFFF#32),
     ("ECB.DEC", 0x00000004#32, 0xFFFFFFFF#32), ("CHAIN.INIT", 0x00000005#32, 0xFFFFFFFF#32),
     ("CBC.ENC.BLK", 0x00000006#32, 0xFFFFFFFF#32), ("CBC.DEC.BLK", 0x00000007#32, 0xFFFFFFFF#32),
     ("PAD", 0x00000008#32, 0xFFFFFFFF#32), ("UNPAD", 0x00000009#32, 0xFFFFFFFF#32),
     ("ENC.MSG", 0x0000000A#32, 0xFFFFFFFF#32), ("DEC.MSG", 0x0000000B#32, 0xFFFFFFFF#32)] ∧
  ∀ w : Word,
    (∀ i, decode w = .ok i → ∃ r ∈ opcodeRows, r.mnemonic = mnemonic i ∧ w &&& r.mask = r.value) ∧
    (∀ r ∈ opcodeRows, w &&& r.mask = r.value → ∃ i, decode w = .ok i ∧ mnemonic i = r.mnemonic) ∧
    (∀ r ∈ opcodeRows, ∀ q ∈ opcodeRows, w &&& r.mask = r.value → w &&& q.mask = q.value → r = q)

/-- R65: which words are illegal, and what an illegal word written to CMD while idle does: it starts a command like any
other word, and that command completes with ILLEGAL_CMD (9) and changes no other state. -/
def Obligations.IllegalWordsAreReported : Prop :=
  ∀ w : Word,
    ((∃ e, decode w = .error e) ↔
      (0xC ≤ opField w ∨ rsv0Field w ≠ 0 ∨ rsv1Field w ≠ 0 ∨ (klenField w ≠ 0 ∧ opField w ≠ 0x1))) ∧
    ∀ (s : State) (e : Illegal), decode w = .error e → s.busy = false →
      ∃ t, busWrite 0x010#14 w s = (.okay, t) ∧ t.pend = some w ∧
        completeWord w t = .next { s with err := .illegalCmd, done := true, pend := none } ∧
        ErrCode.illegalCmd.code = 9#4

/-- R61, R64: some command words written out from the encoding, and the commands they are. -/
def Obligations.SampleWordsDecode : Prop :=
  decode 0b00000000000000000000000000000000#32 = .ok .nop ∧
  decode 0b00000000000000000000111000000001#32 = .ok (.keyload 14) ∧
  decode 0b00000000000000000001111100000001#32 = .ok (.keyload 31) ∧
  decode 0b00000000000000000000000000000010#32 = .ok .keyclr ∧
  decode 0b00000000000000000000000000000011#32 = .ok .ecbEnc ∧
  decode 0b00000000000000000000000000000111#32 = .ok .cbcDecBlk ∧
  decode 0b00000000000000000000000000001000#32 = .ok .pad ∧
  decode 0b00000000000000000000000000001010#32 = .ok .encMsg ∧
  decode 0b00000000000000000010000000000001#32 = .error .reservedBits ∧
  decode 0b00000000000000000000000000001100#32 = .error .badOpcode ∧
  decode 0b00000000000000000000000100000000#32 = .error .strayKlen

/-- R69: KEYLOAD takes one decimal operand from 0 to 31 and every other mnemonic none; an assembler refuses KEYLOAD with
every operand outside 0 to 31, with one that is no decimal number and with none, and refuses every operand on any other
mnemonic; `.word` and eight hex digits, in capitals or not, write any 32-bit word. Two readings are the model's choice
(assumption log 18): a decimal operand is the number it writes, leading zeros among its digits; and `.word` takes the
digits of a word without leading zeros as well. -/
def Obligations.AssemblerFollowsOpcodeMap : Prop :=
  (∀ k, k ≤ 31 → asmCommand "KEYLOAD".toList (some (Nat.toDigits 10 k)) = some (encode (.keyload k))) ∧
  (∀ k, 31 < k → asmCommand "KEYLOAD".toList (some (Nat.toDigits 10 k)) = none) ∧
  (∀ z k, asmCommand "KEYLOAD".toList (some (List.replicate z '0' ++ Nat.toDigits 10 k)) =
    asmCommand "KEYLOAD".toList (some (Nat.toDigits 10 k))) ∧
  (∀ cs, decNumber cs = none → asmCommand "KEYLOAD".toList (some cs) = none) ∧
  asmCommand "KEYLOAD".toList none = none ∧
  (∀ r ∈ opcodeRows, r.mnemonic ≠ "KEYLOAD" →
    asmCommand r.mnemonic.toList none = some r.value ∧ ∀ cs, asmCommand r.mnemonic.toList (some cs) = none) ∧
  (∀ n, n < 2 ^ 32 →
    let eight := List.replicate (8 - (Nat.toDigits 16 n).length) '0' ++ Nat.toDigits 16 n
    eight.length = 8 ∧
    asmValue [".word".toList, '0' :: 'x' :: eight] = some (BitVec.ofNat 32 n) ∧
    asmValue [".word".toList, '0' :: 'x' :: eight.map Char.toUpper] = some (BitVec.ofNat 32 n) ∧
    asmValue [".word".toList, '0' :: 'x' :: Nat.toDigits 16 n] = some (BitVec.ofNat 32 n))

/-! ## The step -/

/-- R71, R75: where the word in flight decodes to a command and the turn is the engine's, a step is exec of that command;
the turn is used up, and nothing else is added. -/
def Obligations.StepRunsDecodedCommand : Prop :=
  ∀ (s : State) (w : Word) (i : Instr), s.rstN = true → s.pend = some w → decode w = .ok i →
    (s.host = [] → step s = exec i s) ∧
    (∀ rest, s.host = .engine :: rest → step s = exec i { s with host := rest })

/-- R44: a step whose turn is the host's runs its transaction at the offset `addr - ENCDEC_BASE`: the next state is what
busRead or busWrite leaves, with what it answered as the reply; a transaction outside the window changes nothing of ENCDEC's; R142, U9: one that targets ENCDEC while `rst_n = 0` is refused. -/
def Obligations.StepRunsBusTransaction : Prop :=
  ∀ (s : State) (rest : List HostEvent) (addr : Nat) (v : Word),
    (∀ off : BitVec 14, addr = s.base + off.toNat → s.rstN = true →
      let s' := { s with host := rest }
      (s.host = .read addr :: rest →
        step s = .next { (busRead off s').2.2 with reply := some (.read (busRead off s').1 (busRead off s').2.1) }) ∧
      (s.host = .write addr v :: rest →
        step s = .next { (busWrite off v s').2 with reply := some (.write (busWrite off v s').1) })) ∧
    ((addr < s.base ∨ s.base + 0x4000 ≤ addr) → s.host = .read addr :: rest ∨ s.host = .write addr v :: rest →
      step s = .next { s with host := rest, reply := none }) ∧
    (s.base ≤ addr → addr < s.base + 0x4000 → s.rstN = false →
      s.host = .read addr :: rest ∨ s.host = .write addr v :: rest → step s = .refused .busDuringReset)

/-- R75: the completion step on a word in flight: the command's writes, none of them where the code is not OK, then ERR, DONE and PEND;
it does not change CTRL, MSG_LEN, DIN, IBUF or OVR. It always completes. -/
def Obligations.CompletionStep : Prop :=
  ∀ (w : Word) (s : State), ∃ t, completeWord w s = .next t ∧
    (∀ i, decode w = .ok i → exec i s = .next t) ∧
    (∀ e, decode w = .error e → t = { s with err := .illegalCmd, done := true, pend := none }) ∧
    t.done = true ∧ t.pend = none ∧ t.busy = false ∧ t.err.raised = true ∧
    (t.err ≠ .ok → t = { s with err := t.err, done := true, pend := none }) ∧
    t.ie = s.ie ∧ t.trimTrail = s.trimTrail ∧ t.trimLead = s.trimLead ∧ t.msgLen = s.msgLen ∧ t.din = s.din ∧
    t.ibuf = s.ibuf ∧ t.ovr = s.ovr

/-- R128: a word that decodes to no command completes with ERR = 9, DONE = 1 and BUSY = 0 and changes no other state; it
is no trap: the next CMD write is accepted normally. -/
def Obligations.IllegalCommandCompletes : Prop :=
  ∀ (s : State) (w : Word) (e : Illegal), s.rstN = true → s.host = [] → s.pend = some w → decode w = .error e →
    ∃ t, step s = .next t ∧ t = { s with err := .illegalCmd, done := true, pend := none } ∧ t.err.code = 9#4 ∧
      t.busy = false ∧
      ∀ v, busWrite 0x010#14 v t = (.okay, { t with pend := some v, done := false, err := .ok })

/-- R77: every error is precise: a command that ends with an error writes nothing but ERR, DONE and PEND. -/
def Obligations.ErrorsArePrecise : Prop :=
  ∀ (i : Instr) (s t : State), exec i s = .next t → t.err ≠ .ok →
    t = { s with err := t.err, done := true, pend := none } ∧
    t.obuf = s.obuf ∧ t.outLen = s.outLen ∧ t.dout = s.dout ∧ t.chain = s.chain ∧ t.key = s.key ∧ t.rk = s.rk ∧
    t.keyValid = s.keyValid

/-- R130: which error a command word reports: ILLEGAL_CMD, then KEY_SIZE, then BUFFER_SIZE, then INVALID_KEY, then
DATA_SIZE, each where its condition of R126 holds and no earlier one does, and OK where none does. -/
def Obligations.FirstErrorIsReported : Prop :=
  ∀ (w : Word) (s t : State), completeWord w s = .next t →
    (∀ e, decode w = .error e → t.err = .illegalCmd) ∧
    (∀ i, decode w = .ok i →
      (16 < keyLength i → t.err = .keySize) ∧
      (keyLength i ≤ 16 →
        (badLength i s → t.err = .bufferSize) ∧
        (¬ badLength i s →
          (usesKey i = true ∧ s.keyValid = false → t.err = .invalidKey) ∧
          (usesKey i = false ∨ s.keyValid = true →
            (∀ n, padByte i s = some n → n < 1 ∨ 16 < n → t.err = .dataSize) ∧
            ((∀ n, padByte i s = some n → 1 ≤ n ∧ n ≤ 16) → t.err = .ok)))))

/-! ## Control and key path -/

/-- R80: NOP, the word 0, completes: ERR <- 0, DONE <- 1, BUSY falls; everything else is unchanged. Every other word with
OP = 0 is illegal. After `wr CTRL, 7` and `wr CMD, 0` from reset, STATUS then reads 2 and irq is 1. -/
def Obligations.NopCompletes : Prop :=
  decode 0x00000000#32 = .ok .nop ∧
  (∀ s : State, exec .nop s = .next { s with err := .ok, done := true, pend := none }) ∧
  (∀ w : Word, w &&& 0xF#32 = 0#32 → w ≠ 0#32 → ∃ e, decode w = .error e) ∧
  ∃ t, step (busWrite 0x010#14 0x00000000#32 (busWrite 0x008#14 0x00000007#32 State.reset).2).2 = .next t ∧
    (busRead 0x00C#14 t).2.1 = 0x00000002#32 ∧ t.irq = true

/-- R102: KEYLOAD KLEN with KLEN ≤ 16 completes: KEY is KEYIN[0..KLEN) and then zero bytes, RK its expansion, KEY_VALID 1;
with KLEN > 16 it ends with KEY_SIZE. Everything else is unchanged. Its words are 0x00000001 with KLEN in bits 12:8. -/
def Obligations.KeyloadCommand : Prop :=
  (∀ k, k < 32 → decode (0x00000001#32 ||| (BitVec.ofNat 32 k <<< 8)) = .ok (.keyload k)) ∧
  ∀ (s : State) (klen : Nat),
    (klen ≤ 16 → ∃ k : Block,
      exec (.keyload klen) s =
        .next { s with key := k, rk := keyExpansion k, keyValid := true, err := .ok, done := true, pend := none } ∧
      ∀ i, i < 16 → (blockBytesOf k)[i]? = some (if i < klen then (blockBytesOf s.keyin).getD i 0#8 else 0#8)) ∧
    (16 < klen → exec (.keyload klen) s = .next { s with err := .keySize, done := true, pend := none })

/-- R103: KEYCLR completes: KEY, every RK[r] and KEYIN become zeros and KEY_VALID 0; everything else, CHAIN among it, is
unchanged. While KEY_VALID is 0 every key-using command whose lengths are in order ends with INVALID_KEY, and no step sets
KEY_VALID but the completion of a KEYLOAD. -/
def Obligations.KeyclrCommand : Prop :=
  decode 0x00000002#32 = .ok .keyclr ∧
  (∀ s : State,
    exec .keyclr s =
      .next { s with key := zeroBlock, rk := zeroKeys, keyin := zeroBlock, keyValid := false, err := .ok, done := true,
                     pend := none }) ∧
  (∀ (t : State) (i : Instr), t.keyValid = false → usesKey i = true → ¬ badLength i t →
    exec i t = .next { t with err := .invalidKey, done := true, pend := none }) ∧
  (∀ t u : State, step t = .next u → t.keyValid = false → u.keyValid = true →
    ∃ w k, t.pend = some w ∧ decode w = .ok (.keyload k) ∧ k ≤ 16)

/-! ## The AES core -/

/-- R84: `•` is commutative and associative, distributes over XOR, has identity 0x01, and every nonzero byte has a unique
inverse; and the rule's two examples. -/
def Obligations.FieldMultiplicationLaws : Prop :=
  (∀ a b, gmul a b = gmul b a) ∧
  (∀ a b c, gmul (gmul a b) c = gmul a (gmul b c)) ∧
  (∀ a b c, gmul a (b ^^^ c) = gmul a b ^^^ gmul a c) ∧
  (∀ a, gmul 0x01#8 a = a) ∧
  (∀ a, a ≠ 0#8 → ∃ b, gmul a b = 0x01#8 ∧ ∀ c, gmul a c = 0x01#8 → c = b) ∧
  gmul 0x57#8 0x13#8 = 0xFE#8 ∧ gmul 0x57#8 0x83#8 = 0xC1#8

/-- R85: bit `i` of `SBOX(a)` is `b[i] XOR b[i+4] XOR b[i+5] XOR b[i+6] XOR b[i+7] XOR c[i]`, where `b` is the inverse of
`a` (0 for 0) and `c = 0x63`; INV_SBOX undoes SBOX. -/
def Obligations.SboxIsAffineOfInverse : Prop :=
  (∀ a b : Byte, (a = 0#8 ∧ b = 0#8) ∨ gmul a b = 0x01#8 →
    ∀ i, i < 8 →
      (sbox a).getLsbD i =
        (b.getLsbD i ^^ b.getLsbD ((i + 4) % 8) ^^ b.getLsbD ((i + 5) % 8) ^^ b.getLsbD ((i + 6) % 8) ^^
          b.getLsbD ((i + 7) % 8) ^^ (0x63#8).getLsbD i)) ∧
  (∀ a, invSbox (sbox a) = a) ∧ (∀ a, sbox (invSbox a) = a)

/-- R89, R91: the inverse transformations undo the forward ones, and `InvMixColumns(MixColumns(s)) = s`. -/
def Obligations.RoundTransformationsInvert : Prop :=
  (∀ s, invSubBytes (subBytes s) = s) ∧ (∀ s, invShiftRows (shiftRows s) = s) ∧
  (∀ s, invMixColumns (mixColumns s) = s) ∧ (∀ s, mixColumns (invMixColumns s) = s) ∧
  (∀ s k, addRoundKey (addRoundKey s k) k = s)

/-- R95: the words of the key expansion obey its recurrence: `w[0..3]` are the key's, and for `i` in 4..43 `w[i]` is
`w[i-4] xor w[i-1]`, with `SubWord(RotWord(w[i-1])) xor Rcon[i div 4]` in place of `w[i-1]` where 4 divides `i`. -/
def Obligations.KeyExpansionRecurrence : Prop :=
  ∀ K : Block, ∃ w : List Column, w.length = 44 ∧
    w.take 4 = [K.c0, K.c1, K.c2, K.c3] ∧
    (∀ i, 4 ≤ i → i < 44 →
      w.getD i zeroColumn =
        xorColumn (w.getD (i - 4) zeroColumn)
          (if i % 4 = 0 then xorColumn (subWord (rotWord (w.getD (i - 1) zeroColumn))) (rcon (i / 4))
           else w.getD (i - 1) zeroColumn)) ∧
    (let rk := keyExpansion K
     rk.k0 :: innerKeys rk ++ [rk.k10] =
       (List.range 11).map (fun r => ⟨w.getD (4 * r) zeroColumn, w.getD (4 * r + 1) zeroColumn,
         w.getD (4 * r + 2) zeroColumn, w.getD (4 * r + 3) zeroColumn⟩))

/-- R98: for every key and every block the cipher and the inverse cipher undo each other, and the cipher is a permutation
of the blocks. -/
def Obligations.CipherAndInverseCipher : Prop :=
  ∀ K : Block,
    (∀ B : Block, invCipher (keyExpansion K) (cipher (keyExpansion K) B) = B ∧
      cipher (keyExpansion K) (invCipher (keyExpansion K) B) = B) ∧
    (∀ A B : Block, cipher (keyExpansion K) A = cipher (keyExpansion K) B → A = B) ∧
    (∀ C : Block, ∃ B, cipher (keyExpansion K) B = C)

/-- R99, R100: the examples of the two ECB commands, and the cipher of zeros under the all-zero key. -/
def Obligations.AesExamples : Prop :=
  cipher (keyExpansion (hexBlock 0x000102030405060708090a0b0c0d0e0f#128)) (hexBlock 0x00112233445566778899aabbccddeeff#128)
    = hexBlock 0x69c4e0d86a7b0430d8cdb78070b4c55a#128 ∧
  invCipher (keyExpansion (hexBlock 0x000102030405060708090a0b0c0d0e0f#128)) (hexBlock 0x69c4e0d86a7b0430d8cdb78070b4c55a#128)
    = hexBlock 0x00112233445566778899aabbccddeeff#128 ∧
  cipher (keyExpansion zeroBlock) zeroBlock = hexBlock 0x66e94bd4ef8a2c3b884cfa59ca342b2e#128

/-- R99: ECB.ENC with a key loaded completes with DOUT <- Cipher(RK, DIN); with none it ends with INVALID_KEY. Everything
else is unchanged. -/
def Obligations.EcbEncCommand : Prop :=
  decode 0x00000003#32 = .ok .ecbEnc ∧
  ∀ s : State,
    (s.keyValid = true →
      exec .ecbEnc s = .next { s with dout := cipher s.rk s.din, err := .ok, done := true, pend := none }) ∧
    (s.keyValid = false → exec .ecbEnc s = .next { s with err := .invalidKey, done := true, pend := none })

/-- R100: ECB.DEC with a key loaded completes with DOUT <- InvCipher(RK, DIN); with none it ends with INVALID_KEY.
Everything else is unchanged. ECB.ENC, then ECB.DEC with DOUT copied back to DIN by the host, returns the original DIN,
whatever the key (R23: RK is the expansion of KEY while KEY_VALID = 1). -/
def Obligations.EcbDecCommand : Prop :=
  decode 0x00000004#32 = .ok .ecbDec ∧
  (∀ s : State,
    (s.keyValid = true →
      exec .ecbDec s = .next { s with dout := invCipher s.rk s.din, err := .ok, done := true, pend := none }) ∧
    (s.keyValid = false → exec .ecbDec s = .next { s with err := .invalidKey, done := true, pend := none })) ∧
  ∀ s : State, Inv s → s.keyValid = true →
    ∃ t u, exec .ecbEnc s = .next t ∧ exec .ecbDec { t with din := t.dout } = .next u ∧ u.err = .ok ∧ u.dout = s.din

/-! ## The CBC controller -/

/-- R108: CHAIN.INIT, the word 5, completes, key or no key: CHAIN <- IV, and CHAIN0-3 then read as IV0-3 do; everything else is
unchanged. -/
def Obligations.ChainInitCommand : Prop :=
  decode 0x00000005#32 = .ok .chainInit ∧
  ∀ s : State, ∃ t,
    exec .chainInit s = .next t ∧
    t = { s with chain := hexBlock 0x000102030405060708090a0b0c0d0e0f#128, err := .ok, done := true, pend := none } ∧
    (busRead 0x040#14 t).2.1 = 0x03020100#32 ∧ (busRead 0x044#14 t).2.1 = 0x07060504#32 ∧
    (busRead 0x048#14 t).2.1 = 0x0B0A0908#32 ∧ (busRead 0x04C#14 t).2.1 = 0x0F0E0D0C#32

/-- R109: CBC.ENC.BLK with a key loaded completes: DOUT and CHAIN become Cipher(RK, DIN xor the old CHAIN); with none it
ends with INVALID_KEY and CHAIN unchanged. Everything else is unchanged. It is one iteration of CbcEncrypt from CHAIN, and
with CHAIN zeros it gives the DOUT of ECB.ENC. -/
def Obligations.CbcEncBlkCommand : Prop :=
  decode 0x00000006#32 = .ok .cbcEncBlk ∧
  ∀ s : State,
    (s.keyValid = true →
      exec .cbcEncBlk s =
        .next { s with dout := cipher s.rk (xorBlock s.din s.chain), chain := cipher s.rk (xorBlock s.din s.chain),
                       err := .ok, done := true, pend := none } ∧
      cbcEncrypt s.rk s.chain (blockBytesOf s.din) =
        (blockBytesOf (cipher s.rk (xorBlock s.din s.chain)), cipher s.rk (xorBlock s.din s.chain)) ∧
      (s.chain = zeroBlock → cipher s.rk (xorBlock s.din s.chain) = cipher s.rk s.din)) ∧
    (s.keyValid = false → exec .cbcEncBlk s = .next { s with err := .invalidKey, done := true, pend := none })

/-- R110: CBC.DEC.BLK with a key loaded completes: DOUT becomes InvCipher(RK, DIN) xor the old CHAIN, CHAIN becomes DIN;
with none it ends with INVALID_KEY. Everything else is unchanged. -/
def Obligations.CbcDecBlkCommand : Prop :=
  decode 0x00000007#32 = .ok .cbcDecBlk ∧
  ∀ s : State,
    (s.keyValid = true →
      exec .cbcDecBlk s =
        .next { s with dout := xorBlock (invCipher s.rk s.din) s.chain, chain := s.din, err := .ok, done := true,
                       pend := none } ∧
      cbcDecrypt s.rk s.chain (blockBytesOf s.din) = (blockBytesOf (xorBlock (invCipher s.rk s.din) s.chain), s.din)) ∧
    (s.keyValid = false → exec .cbcDecBlk s = .next { s with err := .invalidKey, done := true, pend := none })

/-- R107: for every key, every start and every byte string of a multiple of 16 bytes, CbcDecrypt undoes CbcEncrypt and
ends with the same last block; and (R105) the lengths are equal. -/
def Obligations.CbcDecryptUndoesCbcEncrypt : Prop :=
  ∀ (K V : Block) (P : Bytes), P.length % 16 = 0 →
    (cbcEncrypt (keyExpansion K) V P).1.length = P.length ∧
    cbcDecrypt (keyExpansion K) V (cbcEncrypt (keyExpansion K) V P).1 = (P, (cbcEncrypt (keyExpansion K) V P).2)

/-- R111: after CHAIN.INIT, a stream of CBC.ENC.BLK over the blocks of P' gives the blocks of CbcEncrypt(RK, IV, P') and
ends with CHAIN equal to its last block; the same holds of CBC.DEC.BLK and CbcDecrypt. -/
def Obligations.BlockStreamsMatchChaining : Prop :=
  ∀ (s : State) (P : Bytes), s.keyValid = true → P.length % 16 = 0 →
    ∃ t, exec .chainInit s = .next t ∧
      (∃ out u, streamBlocks .cbcEncBlk (blocksOfBytes (P.length / 16) P) t = some (out, u) ∧
        bytesOfBlocks out = (cbcEncrypt s.rk iv P).1 ∧ u.chain = (cbcEncrypt s.rk iv P).2) ∧
      (∃ out u, streamBlocks .cbcDecBlk (blocksOfBytes (P.length / 16) P) t = some (out, u) ∧
        bytesOfBlocks out = (cbcDecrypt s.rk iv P).1 ∧ u.chain = (cbcDecrypt s.rk iv P).2)

/-! ## The padder and the unpadder -/

/-- R113: `len(Pad(P)) = len(P) + N = 16 · (len(P) div 16 + 1) = ceil((len(P) + 1) / 16) · 16` with N from 1 to 16. -/
def Obligations.PadLengthLaw : Prop :=
  ∀ P : Bytes,
    (padBytes P).length = P.length + padCount P.length ∧
    (padBytes P).length = 16 * (P.length / 16 + 1) ∧
    (padBytes P).length = (P.length + 1 + 16 - 1) / 16 * 16 ∧
    (padBytes P).length % 16 = 0 ∧ P.length + 1 ≤ (padBytes P).length ∧
    1 ≤ padCount P.length ∧ padCount P.length ≤ 16

/-- R114: Trim removes the longest suffix of NUL bytes where trail = 1 and the longest prefix where lead = 1, nothing
else, and the order of the two does not matter; with both 0 it is the identity. -/
def Obligations.TrimLaw : Prop :=
  ∀ (R : Bytes) (lead trail : Bool),
    (∃ p q, R = zeros p ++ trim R lead trail ++ zeros q ∧ (lead = false → p = 0) ∧ (trail = false → q = 0)) ∧
    (lead = true → (trim R lead trail).head? ≠ some 0#8) ∧
    (trail = true → (trim R lead trail).getLast? ≠ some 0#8) ∧
    trimTrailing (trimLeading R) = trimLeading (trimTrailing R) ∧
    trim R false false = R

/-- R116: unpadding a padded message gives the trimmed message; with trimming off the message itself; and the trimmed
message is the message exactly when it does not end in 0x00 (if trail = 1) and does not start with 0x00 (if lead = 1). -/
def Obligations.UnpadUndoesPad : Prop :=
  ∀ (P : Bytes) (lead trail : Bool),
    unpadBytes (padBytes P) false false = .ok P ∧
    unpadBytes (padBytes P) lead trail = .ok (trim P lead trail) ∧
    (trim P lead trail = P ↔
      (trail = true → P.getLast? ≠ some 0#8) ∧ (lead = true → P.head? ≠ some 0#8))

/-- R117: PAD with MSG_LEN < BUF_BYTES completes, key or no key: OBUF[0..OUT_LEN) is IBUF[0..MSG_LEN) and then N bytes of
value N = 16 - MSG_LEN mod 16, OUT_LEN is MSG_LEN + N; with MSG_LEN ≥ BUF_BYTES it ends with BUFFER_SIZE. Every byte of
IBUF and everything else of the machine is unchanged. (`draws` is the model's own count of unspecified draws.) -/
def Obligations.PadCommand : Prop :=
  decode 0x00000008#32 = .ok .pad ∧
  ∀ s : State, s.bufBytes ≤ 4096 →
    (s.msgLen.toNat < s.bufBytes →
      ∃ (ob : Memory) (len : BitVec 16),
        exec .pad s = .next { s with obuf := ob, outLen := len, draws := s.draws + 1, err := .ok, done := true, pend := none } ∧
        len.toNat = s.msgLen.toNat + (16 - s.msgLen.toNat % 16) ∧
        ∀ i, i < len.toNat →
          ob.read i = if i < s.msgLen.toNat then s.ibuf.read i else BitVec.ofNat 8 (16 - s.msgLen.toNat % 16)) ∧
    (s.bufBytes ≤ s.msgLen.toNat → exec .pad s = .next { s with err := .bufferSize, done := true, pend := none })

/-- R118: UNPAD with MSG_LEN a positive multiple of 16 up to BUF_BYTES and a last byte N from 1 to 16 completes, key or no
key: OUT_LEN and OBUF[0..OUT_LEN) are the bytes IBUF[0..MSG_LEN - N), trimmed as CTRL says; with another length it ends
with BUFFER_SIZE, else with another last byte with DATA_SIZE. Everything else is unchanged. -/
def Obligations.UnpadCommand : Prop :=
  decode 0x00000009#32 = .ok .unpad ∧
  ∀ s : State, s.bufBytes ≤ 4096 →
    let L := s.msgLen.toNat
    let n := (s.ibuf.read (L - 1)).toNat
    (L ≠ 0 → L % 16 = 0 → L ≤ s.bufBytes → 1 ≤ n → n ≤ 16 →
      ∃ (ob : Memory) (len : BitVec 16),
        exec .unpad s = .next { s with obuf := ob, outLen := len, draws := s.draws + 1, err := .ok, done := true, pend := none } ∧
        ob.slice len.toNat = trim ((s.ibuf.slice L).take (L - n)) s.trimLead s.trimTrail) ∧
    (L = 0 ∨ L % 16 ≠ 0 ∨ s.bufBytes < L → exec .unpad s = .next { s with err := .bufferSize, done := true, pend := none }) ∧
    (L ≠ 0 → L % 16 = 0 → L ≤ s.bufBytes → n < 1 ∨ 16 < n →
      exec .unpad s = .next { s with err := .dataSize, done := true, pend := none })

/-! ## The message commands -/

/-- R119: ENC.MSG with MSG_LEN < BUF_BYTES and a key loaded completes: OBUF[0..OUT_LEN) is the CBC encryption from IV of
the padded message, CHAIN its last block; with MSG_LEN ≥ BUF_BYTES it ends with BUFFER_SIZE, else with no key with
INVALID_KEY. Everything else is unchanged. -/
def Obligations.EncMsgCommand : Prop :=
  decode 0x0000000A#32 = .ok .encMsg ∧
  ∀ s : State, s.bufBytes ≤ 4096 →
    (s.msgLen.toNat < s.bufBytes → s.keyValid = true →
      ∃ (ob : Memory) (len : BitVec 16),
        exec .encMsg s =
          .next { s with obuf := ob, outLen := len, chain := (cbcEncrypt s.rk iv (padBytes (s.ibuf.slice s.msgLen.toNat))).2,
                         draws := s.draws + 1, err := .ok, done := true, pend := none } ∧
        len.toNat = (s.msgLen.toNat + 1 + 15) / 16 * 16 ∧
        ob.slice len.toNat = (cbcEncrypt s.rk iv (padBytes (s.ibuf.slice s.msgLen.toNat))).1 ∧
        bytesOfBlocks [(cbcEncrypt s.rk iv (padBytes (s.ibuf.slice s.msgLen.toNat))).2] =
          (ob.slice len.toNat).drop (len.toNat - 16)) ∧
    (s.bufBytes ≤ s.msgLen.toNat → exec .encMsg s = .next { s with err := .bufferSize, done := true, pend := none }) ∧
    (s.msgLen.toNat < s.bufBytes → s.keyValid = false →
      exec .encMsg s = .next { s with err := .invalidKey, done := true, pend := none })

/-- R120: DEC.MSG with MSG_LEN a positive multiple of 16 up to BUF_BYTES, a key loaded and a decrypted last byte N from 1
to 16 completes: OBUF[0..OUT_LEN) is the decrypted message less its last N bytes, trimmed as CTRL says, CHAIN is
IBUF[MSG_LEN-16..MSG_LEN); else it ends with BUFFER_SIZE, INVALID_KEY or DATA_SIZE, in that order. Everything else is
unchanged. -/
def Obligations.DecMsgCommand : Prop :=
  decode 0x0000000B#32 = .ok .decMsg ∧
  ∀ s : State, s.bufBytes ≤ 4096 →
    let L := s.msgLen.toNat
    let q := (cbcDecrypt s.rk iv (s.ibuf.slice L)).1
    let n := (q.getLastD 0#8).toNat
    (L ≠ 0 → L % 16 = 0 → L ≤ s.bufBytes → s.keyValid = true → 1 ≤ n → n ≤ 16 →
      ∃ (ob : Memory) (len : BitVec 16) (last : Block),
        exec .decMsg s =
          .next { s with obuf := ob, outLen := len, chain := last, draws := s.draws + 1, err := .ok, done := true,
                         pend := none } ∧
        ob.slice len.toNat = trim (q.take (L - n)) s.trimLead s.trimTrail ∧
        blockBytesOf last = (s.ibuf.slice L).drop (L - 16)) ∧
    (L = 0 ∨ L % 16 ≠ 0 ∨ s.bufBytes < L → exec .decMsg s = .next { s with err := .bufferSize, done := true, pend := none }) ∧
    (L ≠ 0 → L % 16 = 0 → L ≤ s.bufBytes → s.keyValid = false →
      exec .decMsg s = .next { s with err := .invalidKey, done := true, pend := none }) ∧
    (L ≠ 0 → L % 16 = 0 → L ≤ s.bufBytes → s.keyValid = true → n < 1 ∨ 16 < n →
      exec .decMsg s = .next { s with err := .dataSize, done := true, pend := none })

/-- R121: after ENC.MSG without error OUT_LEN = ceil((MSG_LEN + 1)/16) · 16 = MSG_LEN + N with 1 ≤ N ≤ 16, a multiple of
16; after DEC.MSG without error OUT_LEN ≤ MSG_LEN - 1. -/
def Obligations.MessageLengthLaws : Prop :=
  ∀ s t : State, s.bufBytes ≤ 4096 → t.err = .ok →
    (exec .encMsg s = .next t →
      t.outLen.toNat = (s.msgLen.toNat + 1 + 15) / 16 * 16 ∧ t.outLen.toNat % 16 = 0 ∧
      ∃ n, 1 ≤ n ∧ n ≤ 16 ∧ t.outLen.toNat = s.msgLen.toNat + n) ∧
    (exec .decMsg s = .next t → t.outLen.toNat + 1 ≤ s.msgLen.toNat)

/-- R122: let ENC.MSG complete without error on a message P, and let the host copy OBUF[0..OUT_LEN) to IBUF and OUT_LEN to
MSG_LEN, whatever it writes to the trim bits and the block registers between. Then DEC.MSG under the same key completes
without error, and OBUF[0..OUT_LEN) is P trimmed as CTRL says at DEC.MSG; with both trim bits 0 it is P. -/
def Obligations.MessageRoundTrip : Prop :=
  ∀ s t u : State, Inv s → exec .encMsg s = .next t → t.err = .ok →
    u.bufBytes = s.bufBytes → u.key = t.key → u.rk = t.rk → u.keyValid = t.keyValid →
    u.msgLen = t.outLen → (∀ i, i < t.outLen.toNat → u.ibuf.read i = t.obuf.read i) →
    ∃ v, exec .decMsg u = .next v ∧ v.err = .ok ∧
      v.obuf.slice v.outLen.toNat = trim (s.ibuf.slice s.msgLen.toNat) u.trimLead u.trimTrail ∧
      (u.trimLead = false → u.trimTrail = false → v.obuf.slice v.outLen.toNat = s.ibuf.slice s.msgLen.toNat)

/-- R123: two ENC.MSG commands with the same key and the same IBUF[0..MSG_LEN) give the same OBUF[0..OUT_LEN), OUT_LEN and
CHAIN, whatever else differs between their states (CHAIN, DIN, DOUT, CTRL, OBUF among it). -/
def Obligations.EncMsgIsDeterministic : Prop :=
  ∀ a b t u : State, Inv a → Inv b → a.key = b.key →
    a.msgLen = b.msgLen → (∀ i, i < a.msgLen.toNat → a.ibuf.read i = b.ibuf.read i) →
    exec .encMsg a = .next t → exec .encMsg b = .next u → t.err = .ok → u.err = .ok →
    t.outLen = u.outLen ∧ t.chain = u.chain ∧ t.obuf.slice t.outLen.toNat = u.obuf.slice u.outLen.toNat

/-- R124: let DEC.MSG complete without error on ciphertext C and give R. ENC.MSG on R, under the same key, gives back C
exactly when Pad(R) is the decryption of C. -/
def Obligations.ReencryptionLaw : Prop :=
  ∀ s t u : State, Inv s → exec .decMsg s = .next t → t.err = .ok →
    u.bufBytes = s.bufBytes → u.rk = t.rk → u.keyValid = t.keyValid →
    u.msgLen = t.outLen → (∀ i, i < t.outLen.toNat → u.ibuf.read i = t.obuf.read i) →
    ∃ v, exec .encMsg u = .next v ∧ v.err = .ok ∧
      (v.obuf.slice v.outLen.toNat = s.ibuf.slice s.msgLen.toNat ↔
        padBytes (t.obuf.slice t.outLen.toNat) = (cbcDecrypt s.rk iv (s.ibuf.slice s.msgLen.toNat)).1)

/-- R125: the host's procedure for a message longer than the buffer: CHAIN.INIT, CBC.ENC.BLK for each full block, PAD of
the last `len(P) mod 16` bytes written to IBUF, CBC.ENC.BLK of the block PAD leaves in OBUF. It gives
`CbcEncrypt(RK, IV, Pad(P))`. -/
def Obligations.LongMessageProcedure : Prop :=
  ∀ (s : State) (P : Bytes), Inv s → s.keyValid = true →
    ∃ t out u, exec .chainInit s = .next t ∧
      streamBlocks .cbcEncBlk (blocksOfBytes (P.length / 16) P) t = some (out, u) ∧
      ∀ m : Memory, m.slice (P.length % 16) = P.drop (16 * (P.length / 16)) →
        ∃ x last y, exec .pad { u with ibuf := m, msgLen := BitVec.ofNat 16 (P.length % 16) } = .next x ∧
          x.err = .ok ∧ x.outLen = 16#16 ∧
          streamBlocks .cbcEncBlk (blocksOfBytes 1 (x.obuf.slice 16)) x = some ([last], y) ∧
          bytesOfBlocks (out ++ [last]) = (cbcEncrypt s.rk iv (padBytes P)).1 ∧
          y.chain = (cbcEncrypt s.rk iv (padBytes P)).2

/-! ## The bus -/

/-- R74: a CMD write while idle starts a command, whatever the word: PEND <- the whole word, DONE <- 0, ERR <- 0, BUSY then
reads 1, and no other state changes. -/
def Obligations.CmdWriteLaunches : Prop :=
  ∀ (s : State) (v : Word), s.pend = none →
    ∃ t, busWrite 0x010#14 v s = (.okay, t) ∧ t = { s with pend := some v, done := false, err := .ok } ∧
      (busRead 0x00C#14 t).2.1.getLsbD 0 = true

/-- R46: a misaligned transaction answers ERROR, a read with data 0, and changes no state. -/
def Obligations.MisalignedChangesNothing : Prop :=
  ∀ (s : State) (off : BitVec 14) (v : Word), off.extractLsb' 0 2 ≠ 0#2 →
    busRead off s = (.error, 0#32, s) ∧ busWrite off v s = (.error, s)

/-- R47, R51: reserved offsets, window words past BUF_BYTES among them, read 0 with OKAY and ignore writes while idle; a
write to a read-only register is ignored; a write-only register reads 0; reserved bits of CTRL and MSG_LEN read 0. -/
def Obligations.ReservedReadsZeroIgnoresWrites : Prop :=
  ∀ (s : State) (off : BitVec 14) (v : Word), off.toNat % 4 = 0 →
    (let o := off.toNat
     (o = 0x01C ∨ (0x070 ≤ o ∧ o ≤ 0x0FFC) ∨ 0x3000 ≤ o ∨ (0x1000 ≤ o ∧ o < 0x2000 ∧ s.bufBytes < o - 0x1000 + 4) ∨
        (0x2000 ≤ o ∧ o < 0x3000 ∧ s.bufBytes < o - 0x2000 + 4) →
       busRead off s = (.okay, 0#32, s) ∧ (s.busy = false → busWrite off v s = (.okay, s))) ∧
     (o = 0x000 ∨ o = 0x004 ∨ o = 0x018 ∨ (0x030 ≤ o ∧ o < 0x050) ∨ (0x060 ≤ o ∧ o < 0x070) ∨ (0x2000 ≤ o ∧ o < 0x3000) →
       s.busy = false → busWrite off v s = (.okay, s)) ∧
     (o = 0x010 ∨ (0x020 ≤ o ∧ o < 0x030) → busRead off s = (.okay, 0#32, s))) ∧
    (busRead 0x008#14 s).2.1.toNat < 8 ∧ (busRead 0x014#14 s).2.1.toNat < 65536

/-- R145: while BUSY = 1 an aligned write to any offset but STATUS is dropped, sets OVR and answers OKAY; a write to STATUS
takes effect as usual; a misaligned write answers ERROR and does not set OVR; and OVR stays 1 over every command's
completion and every transaction but a write of 1 to STATUS bit 3. -/
def Obligations.BusyWritesAreDropped : Prop :=
  ∀ (s : State) (off : BitVec 14) (v : Word),
    (s.busy = true → off.toNat % 4 = 0 → off ≠ 0x00C#14 → busWrite off v s = (.okay, { s with ovr := true })) ∧
    (busWrite 0x00C#14 v s = (.okay, { s with done := s.done && !v.getLsbD 1, ovr := s.ovr && !v.getLsbD 3 })) ∧
    (off.toNat % 4 ≠ 0 → busWrite off v s = (.error, s)) ∧
    (s.ovr = true →
      ((busWrite off v s).2.ovr = false → off = 0x00C#14 ∧ v.getLsbD 3 = true) ∧
      (busRead off s).2.2.ovr = true ∧
      ∀ w t, completeWord w s = .next t → t.ovr = true)

/-- R146, R72: while BUSY = 1 a read of CHAIN0-3, DOUT0-3, OUT_LEN or a word of the OBUF window inside the buffer answers
OKAY and changes no state but the model's count of draws (its data is a free value, of which nothing is said); any other
aligned read gives the value it gives to the same machine idle, but for STATUS, which shows BUSY. -/
def Obligations.BusyReads : Prop :=
  ∀ (s : State) (off : BitVec 14), s.busy = true → off.toNat % 4 = 0 →
    let o := off.toNat
    let open_ := (0x040 ≤ o ∧ o < 0x050) ∨ (0x060 ≤ o ∧ o < 0x070) ∨ o = 0x018 ∨
      (0x2000 ≤ o ∧ o < 0x3000 ∧ o - 0x2000 + 4 ≤ s.bufBytes)
    (open_ → (busRead off s).1 = .okay ∧ (busRead off s).2.2 = { s with draws := s.draws + 1 }) ∧
    (¬ open_ → o ≠ 0x00C →
      busRead off s = (.okay, (busRead off { s with pend := none }).2.1, s)) ∧
    (busRead 0x00C#14 s).2.1 = (busRead 0x00C#14 { s with pend := none }).2.1 ||| 1#32

/-- R54: no read changes any state (but the model's count of draws, and not even that while idle), and reading twice while
idle gives the same answer twice. -/
def Obligations.ReadsChangeNothing : Prop :=
  ∀ (s : State) (off : BitVec 14),
    (busRead off s).2.2 = { s with draws := (busRead off s).2.2.draws } ∧
    (s.busy = false → (busRead off s).2.2 = s ∧ busRead off (busRead off s).2.2 = busRead off s)

/-- R26, R32-R37, R41: what ID, CAP, CTRL, STATUS, MSG_LEN, OUT_LEN and IV0-3 read while idle. -/
def Obligations.RegisterMapReads : Prop :=
  ∀ s : State, s.pend = none → s.bufBytes ≤ 4096 →
    busRead 0x000#14 s = (.okay, 0x41455331#32, s) ∧
    busRead 0x004#14 s = (.okay, BitVec.ofNat 32 s.bufBytes, s) ∧
    (busRead 0x008#14 s).2.1 = (if s.ie then 1#32 else 0#32) ||| (if s.trimTrail then 2#32 else 0#32) |||
      (if s.trimLead then 4#32 else 0#32) ∧
    (busRead 0x00C#14 s).2.1 = (if s.done then 2#32 else 0#32) ||| (if s.keyValid then 4#32 else 0#32) |||
      (if s.ovr then 8#32 else 0#32) ||| (s.err.code.setWidth 32 <<< 8) ∧
    busRead 0x014#14 s = (.okay, s.msgLen.setWidth 32, s) ∧
    busRead 0x018#14 s = (.okay, s.outLen.setWidth 32, s) ∧
    (busRead 0x030#14 s).2.1 = 0x03020100#32 ∧ (busRead 0x034#14 s).2.1 = 0x07060504#32 ∧
    (busRead 0x038#14 s).2.1 = 0x0B0A0908#32 ∧ (busRead 0x03C#14 s).2.1 = 0x0F0E0D0C#32

/-- R48: word `j` of CHAIN, DIN and DOUT, and the window word at `4j` of IBUF and OBUF, read while idle, is
`X[4j] + 2^8 X[4j+1] + 2^16 X[4j+2] + 2^24 X[4j+3]`: little-endian. -/
def Obligations.WordsPackLittleEndian : Prop :=
  ∀ s : State, s.pend = none → s.bufBytes ≤ 4096 →
    let le (x : Nat → Nat) (j : Nat) : Nat := x (4 * j) + 256 * x (4 * j + 1) + 65536 * x (4 * j + 2) + 16777216 * x (4 * j + 3)
    (∀ j, j < 4 →
      (busRead (BitVec.ofNat 14 (0x040 + 4 * j)) s).2.1.toNat = le (fun i => ((blockBytesOf s.chain).getD i 0#8).toNat) j ∧
      (busRead (BitVec.ofNat 14 (0x050 + 4 * j)) s).2.1.toNat = le (fun i => ((blockBytesOf s.din).getD i 0#8).toNat) j ∧
      (busRead (BitVec.ofNat 14 (0x060 + 4 * j)) s).2.1.toNat = le (fun i => ((blockBytesOf s.dout).getD i 0#8).toNat) j) ∧
    (∀ j, 4 * j + 4 ≤ s.bufBytes →
      (busRead (BitVec.ofNat 14 (0x1000 + 4 * j)) s).2.1.toNat = le (fun i => (s.ibuf.read i).toNat) j ∧
      (busRead (BitVec.ofNat 14 (0x2000 + 4 * j)) s).2.1.toNat = le (fun i => (s.obuf.read i).toNat) j)

/-- R51, R73: an idle write at IBUF window offset `0x1000 + 4j` inside the buffer stores the word's four bytes, lowest byte
first, at IBUF[4j..4j+4); every other byte of IBUF, every byte of OBUF and all other state is unchanged, and the word
reads back. -/
def Obligations.IbufWriteStoresFourBytes : Prop :=
  ∀ (s : State) (j : Nat) (v : Word), s.pend = none → s.bufBytes ≤ 4096 → 4 * j + 4 ≤ s.bufBytes →
    ∃ m : Memory, busWrite (BitVec.ofNat 14 (0x1000 + 4 * j)) v s = (.okay, { s with ibuf := m }) ∧
      (∀ a, m.read a =
        if 4 * j ≤ a ∧ a < 4 * j + 4 then v.extractLsb' (8 * (a - 4 * j)) 8 else s.ibuf.read a) ∧
      (busRead (BitVec.ofNat 14 (0x1000 + 4 * j)) { s with ibuf := m }).2.1 = v

/-- R32, R36, R73: an idle write to MSG_LEN stores bits 15:0, one to CTRL bits 2:0 into IE, TRIM_TRAIL and TRIM_LEAD, one to
word `j` of KEYIN or DIN that register's bytes 4j to 4j+3; each reads back but for KEYIN, which reads 0; nothing else
changes. -/
def Obligations.OperandWrites : Prop :=
  ∀ (s : State) (v : Word), s.pend = none →
    busWrite 0x014#14 v s = (.okay, { s with msgLen := v.extractLsb' 0 16 }) ∧
    (busRead 0x014#14 (busWrite 0x014#14 v s).2).2.1 = v &&& 0x0000FFFF#32 ∧
    busWrite 0x008#14 v s = (.okay, { s with ie := v.getLsbD 0, trimTrail := v.getLsbD 1, trimLead := v.getLsbD 2 }) ∧
    (busRead 0x008#14 (busWrite 0x008#14 v s).2).2.1 = v &&& 0x00000007#32 ∧
    ∀ j, j < 4 →
      (∃ b, busWrite (BitVec.ofNat 14 (0x020 + 4 * j)) v s = (.okay, { s with keyin := b }) ∧
        (∀ i, i < 16 → (blockBytesOf b)[i]? =
          if 4 * j ≤ i ∧ i < 4 * j + 4 then some (v.extractLsb' (8 * (i - 4 * j)) 8) else (blockBytesOf s.keyin)[i]?) ∧
        (busRead (BitVec.ofNat 14 (0x020 + 4 * j)) { s with keyin := b }).2.1 = 0#32) ∧
      (∃ b, busWrite (BitVec.ofNat 14 (0x050 + 4 * j)) v s = (.okay, { s with din := b }) ∧
        (∀ i, i < 16 → (blockBytesOf b)[i]? =
          if 4 * j ≤ i ∧ i < 4 * j + 4 then some (v.extractLsb' (8 * (i - 4 * j)) 8) else (blockBytesOf s.din)[i]?) ∧
        (busRead (BitVec.ofNat 14 (0x050 + 4 * j)) { s with din := b }).2.1 = v)

/-- R37: a write to STATUS changes only DONE and OVR: each is cleared by a 1 at its bit and left by a 0, BUSY or not. -/
def Obligations.StatusWriteOneToClear : Prop :=
  ∀ (s : State) (v : Word), ∃ t, busWrite 0x00C#14 v s = (.okay, t) ∧
    t = { s with done := t.done, ovr := t.ovr } ∧
    (v.getLsbD 1 = true → t.done = false) ∧ (v.getLsbD 1 = false → t.done = s.done) ∧
    (v.getLsbD 3 = true → t.ovr = false) ∧ (v.getLsbD 3 = false → t.ovr = s.ovr)

/-- R133, R40: `irq = DONE AND IE`: every completion raises it where CTRL.IE = 1, and a 1 written to STATUS.DONE, a launch,
or an idle CTRL write with bit 0 clear lowers it; a misaligned write and a dropped one leave it. -/
def Obligations.InterruptLevel : Prop :=
  ∀ s : State,
    (s.irq = (s.done && s.ie)) ∧
    (∀ w t, completeWord w s = .next t → t.done = true ∧ t.irq = s.ie) ∧
    (∀ v : Word, v.getLsbD 1 = true → (busWrite 0x00C#14 v s).2.irq = false) ∧
    (s.pend = none → ∀ v : Word, (busWrite 0x010#14 v s).2.irq = false) ∧
    (s.pend = none → ∀ v : Word, v.getLsbD 0 = false → (busWrite 0x008#14 v s).2.irq = false) ∧
    (∀ (off : BitVec 14) (v : Word), off.toNat % 4 ≠ 0 ∨ (s.busy = true ∧ off ≠ 0x00C#14) → (busWrite off v s).2.irq = s.irq)

/-- R104: no bus read returns KEY, RK or KEYIN: two machines that differ only in those three answer every read alike; and
KEYIN0-3 read 0. For an in-flight read of CHAIN0-3, DOUT0-3, OUT_LEN or the OBUF window the data is the model's free value
(assumption log 4), and the two agree because their counts of draws do (assumption log 15: the model's choice). -/
def Obligations.KeyIsNotReadable : Prop :=
  (∀ (s : State) (k ki : Block) (rk : RoundKeys) (off : BitVec 14),
    (busRead off { s with key := k, keyin := ki, rk := rk }).1 = (busRead off s).1 ∧
    (busRead off { s with key := k, keyin := ki, rk := rk }).2.1 = (busRead off s).2.1) ∧
  (∀ (s : State) (j : Nat), j < 4 → (busRead (BitVec.ofNat 14 (0x020 + 4 * j)) s).2.1 = 0#32)

/-! ## Reset -/

/-- R42: the reset state. (BUF_BYTES and ENCDEC_BASE are the instance's parameters, assumption log 5; of the bytes of
IBUF and OBUF nothing is said: they are unspecified.) -/
def Obligations.ResetState : Prop :=
  let s := State.reset
  s.key = zeroBlock ∧ s.rk = zeroKeys ∧ s.keyValid = false ∧ s.keyin = zeroBlock ∧
  s.chain = hexBlock 0x000102030405060708090a0b0c0d0e0f#128 ∧ s.din = zeroBlock ∧ s.dout = zeroBlock ∧
  s.msgLen = 0#16 ∧ s.outLen = 0#16 ∧ s.ie = false ∧ s.trimTrail = true ∧ s.trimLead = true ∧ s.pend = none ∧
  s.done = false ∧ s.ovr = false ∧ s.err = .ok ∧ s.irq = false ∧ s.ibuf.cells = [] ∧ s.obuf.cells = [] ∧
  (busRead 0x000#14 s).2.1 = 0x41455331#32 ∧ (busRead 0x008#14 s).2.1 = 0x00000006#32 ∧ (busRead 0x00C#14 s).2.1 = 0#32 ∧
  (busRead 0x040#14 s).2.1 = 0x03020100#32

/-- R142: driving `rst_n` to 0, and letting it rise, sets every piece of state to its reset value from any state, discards
a command in flight and drops irq; BUF_BYTES and ENCDEC_BASE stay. -/
def Obligations.ResetInputResets : Prop :=
  ∀ (s : State) (rest : List HostEvent), s.host = .resetAssert :: rest →
    ∃ t, step s = .next t ∧ t.rstN = false ∧ t.irq = false ∧ t.host = rest ∧ t.reply = s.reply ∧
      t = { State.reset with base := s.base, bufBytes := s.bufBytes, ibuf := t.ibuf, obuf := t.obuf, rstN := t.rstN,
                             host := t.host, reply := t.reply, draws := t.draws } ∧
      t.ibuf.cells = [] ∧ t.obuf.cells = [] ∧
      ∀ after, ∃ u, step { t with host := .resetRelease :: after } = .next u ∧ u.rstN = true ∧
        u = { State.reset with base := s.base, bufBytes := s.bufBytes, ibuf := u.ibuf, obuf := u.obuf, rstN := u.rstN,
                               host := after, reply := u.reply, draws := u.draws }

/-! ## The machine as a whole -/

/-- R23, R33, R37, R127 and the canonical form hold of the reset state. -/
def Obligations.InvariantAtReset : Prop := Inv State.reset ∧ Safe State.reset = true

/-- R23, R33, R37, R127 and the canonical form of the buffers: every step keeps them, from every state that has them. -/
def Obligations.InvariantKeptByStep : Prop := ∀ s t : State, Inv s → step s = .next t → Inv t

/-- R22, R24, R25, R27-R33, R36, R37, R39, R74, R75, R145, R149: who writes what. A step that is no reset event and is not
taken in reset changes a piece of state only where a writer of that piece acts: KEY, RK and KEY_VALID only KEYLOAD and
KEYCLR; KEYIN only KEYCLR and an idle write to KEYIN0-3; CHAIN, DOUT, OBUF and OUT_LEN only the commands the spec names, on
the completion of one in flight; DIN, IBUF, MSG_LEN and CTRL only an idle write to that register or window; PEND and ERR
only a completion and an idle write to CMD; DONE those two and a 1 written to bit 1 of STATUS; OVR only a 1 written to bit
3 of STATUS, which clears it, and an aligned write to another offset in flight, which sets it; BUF_BYTES, ENCDEC_BASE and
the level of `rst_n` nothing. -/
def Obligations.OnlyNamedWritersChangeState : Prop :=
  ∀ s t : State, step s = .next t → s.rstN = true →
    (∀ rest, s.host ≠ .resetAssert :: rest ∧ s.host ≠ .resetRelease :: rest) →
    let completesWord (w : Word) : Prop := s.engineNext ∧ s.pend = some w ∧ t.pend = none ∧ t.done = true
    let completes (is : List Instr) : Prop := ∃ w i, completesWord w ∧ decode w = .ok i ∧ i ∈ is
    let idleWrite (lo hi : Nat) : Prop := s.pend = none ∧ ∃ v, s.writeNext lo hi v
    let launches : Prop := s.pend = none ∧ ∃ v, s.writeNext 0x010 0x014 v ∧ t.pend = some v ∧ t.done = false ∧ t.err = .ok
    t.base = s.base ∧ t.bufBytes = s.bufBytes ∧ t.rstN = true ∧
    (t.key ≠ s.key ∨ t.rk ≠ s.rk ∨ t.keyValid ≠ s.keyValid →
      ∃ k, k ≤ 16 ∧ completes [.keyload k, .keyclr]) ∧
    (t.keyin ≠ s.keyin → completes [.keyclr] ∨ idleWrite 0x020 0x030) ∧
    (t.chain ≠ s.chain → completes [.chainInit, .cbcEncBlk, .cbcDecBlk, .encMsg, .decMsg]) ∧
    (t.dout ≠ s.dout → completes [.ecbEnc, .ecbDec, .cbcEncBlk, .cbcDecBlk]) ∧
    (t.obuf ≠ s.obuf ∨ t.outLen ≠ s.outLen → completes [.pad, .unpad, .encMsg, .decMsg]) ∧
    (t.din ≠ s.din → idleWrite 0x050 0x060) ∧
    (t.ibuf ≠ s.ibuf → idleWrite 0x1000 (0x1000 + min s.bufBytes 0x1000)) ∧
    (t.msgLen ≠ s.msgLen → idleWrite 0x014 0x018) ∧
    (t.ie ≠ s.ie ∨ t.trimTrail ≠ s.trimTrail ∨ t.trimLead ≠ s.trimLead → idleWrite 0x008 0x00C) ∧
    (t.pend ≠ s.pend ∨ t.err ≠ s.err → (∃ w, completesWord w) ∨ launches) ∧
    (t.done ≠ s.done → (∃ w, completesWord w) ∨ launches ∨
      (t.done = false ∧ ∃ v, s.writeNext 0x00C 0x010 v ∧ v.getLsbD 1 = true)) ∧
    (t.ovr ≠ s.ovr →
      (t.ovr = false ∧ ∃ v, s.writeNext 0x00C 0x010 v ∧ v.getLsbD 3 = true) ∨
      (t.ovr = true ∧ s.busy = true ∧ ∃ v, s.writeNext 0 0x00C v ∨ s.writeNext 0x010 0x4000 v))

/-- R131, R142, U9: a machine whose schedule keeps off the bus during reset never stops, over any number of steps. -/
def Obligations.SafeScheduleNeverStops : Prop :=
  ∀ (n : Nat) (s : State), Safe s = true → ∃ t, runSteps n s = .next t ∧ Safe t = true

/-- R151: if a command is in flight it completes: after any number of bus transactions the host issues first, the engine's
step comes, with DONE = 1 and BUSY = 0. -/
def Obligations.CommandInFlightCompletes : Prop :=
  ∀ s : State, s.rstN = true → s.busy = true → (∀ e ∈ s.host, e.isTransaction = true) →
    ∃ t, runSteps (s.host.length + 1) s = .next t ∧ t.busy = false ∧ t.done = true ∧ t.host = []

/-- R76, R151: a command's results do not depend on when it completes: whatever transactions the host issues while it is
in flight, the machine after its completion differs from the machine after its immediate completion at most in OVR, in
what the bus last answered, and in the model's count of unspecified draws. -/
def Obligations.ResultsDoNotDependOnTiming : Prop :=
  ∀ (s t u : State) (events : List HostEvent), s.rstN = true → s.busy = true → s.host = [] →
    (∀ e ∈ events, e.isTransaction = true) →
    runSteps (events.length + 1) { s with host := events } = .next t →
    step s = .next u →
    t = { u with ovr := t.ovr, reply := t.reply, draws := t.draws, obuf := t.obuf } ∧
      t.obuf.cells = u.obuf.cells ∧ ∀ i ∈ u.obuf.cells.map Prod.fst, t.obuf.read i = u.obuf.read i
end

