-- ==== Sys2Proof/Laws/Asm.lean ====
section
/-! SUPPORT. Sys2Proof/Laws/Asm.lean: reading back the numbers that a host program writes, in base 10 and 16 (R68, R69). -/
namespace Sys2Proof.Machine

/-- A digit of base 16 or lower is read as the digit it writes. -/
theorem digitValue_digitChar {d : Nat} (h : d < 16) : digitValue d.digitChar = some d := by
  revert d
  decide

/-- Digits read one string after the other: the second string goes on from the value of the first. -/
theorem digitsValue_append (base acc : Nat) (cs ds : List Char) :
    digitsValue base acc (cs ++ ds) = (digitsValue base acc cs).bind (fun n => digitsValue base n ds) := by
  induction cs generalizing acc with
  | nil => rfl
  | cons c rest ih =>
    simp only [List.cons_append, digitsValue]
    cases digitValue c with
    | none => rfl
    | some d =>
      by_cases hd : d < base
      · simp only [hd, if_true, ih]
      · simp only [hd, if_false, Option.bind_none]

/-- One digit below the base extends the number before it. -/
theorem digitsValue_digitChar {base d : Nat} (hd : d < base) (h16 : base ≤ 16) (acc : Nat) :
    digitsValue base acc [d.digitChar] = some (acc * base + d) := by
  simp only [digitsValue, digitValue_digitChar (Nat.lt_of_lt_of_le hd h16), hd, if_true]

/-- The digits of a number in a base from 2 to 16 are read as that number. -/
theorem digitsValue_toDigits {base : Nat} (h1 : 1 < base) (h16 : base ≤ 16) (n : Nat) :
    digitsValue base 0 (Nat.toDigits base n) = some n := by
  induction n using Nat.strongRecOn with
  | _ n ih =>
    rcases Nat.lt_or_ge n base with hlt | hge
    · rw [Nat.toDigits_of_lt_base hlt, digitsValue_digitChar hlt h16, Nat.zero_mul, Nat.zero_add]
    · have hq : n / base < n := Nat.div_lt_self (by omega) h1
      rw [Nat.toDigits_of_base_le h1 hge, digitsValue_append, ih _ hq, Option.bind_some,
        digitsValue_digitChar (Nat.mod_lt _ (by omega)) h16, Nat.mul_comm, Nat.div_add_mod]

theorem toDigits_ne_nil {base : Nat} (h1 : 1 < base) (n : Nat) : Nat.toDigits base n ≠ [] := by
  rcases Nat.lt_or_ge n base with hlt | hge
  · simp [Nat.toDigits_of_lt_base hlt]
  · simp [Nat.toDigits_of_base_le h1 hge]

/-- Leading zeros change no number (assumption log 18). -/
theorem digitsValue_zeros {base : Nat} (h1 : 1 < base) (z : Nat) (cs : List Char) :
    digitsValue base 0 (List.replicate z '0' ++ cs) = digitsValue base 0 cs := by
  have h0 : digitValue '0' = some 0 := by decide
  induction z with
  | zero => rfl
  | succ z ih => simp only [List.replicate_succ, List.cons_append, digitsValue, h0, Nat.lt_trans Nat.zero_lt_one h1, if_true,
      Nat.zero_mul, Nat.zero_add, ih]

/-- A capital letter is the same hex digit. -/
theorem digitValue_toUpper (c : Char) : digitValue c.toUpper = digitValue c := by
  by_cases h : c.val ≥ 'a'.val ∧ c.val ≤ 'z'.val
  · have key : ∀ n : Fin 26, digitValue (Char.ofNat (97 + n)).toUpper = digitValue (Char.ofNat (97 + n)) := by decide +kernel
    have h1 : 97 ≤ c.toNat := h.1
    have h2 : c.toNat ≤ 122 := h.2
    have e : c = Char.ofNat (97 + (⟨c.toNat - 97, by omega⟩ : Fin 26).val) := by
      simp only
      rw [show 97 + (c.toNat - 97) = c.toNat by omega, Char.ofNat_toNat]
    rw [e]
    exact key _
  · rw [Char.toUpper, dif_neg h]

theorem digitsValue_toUpper (base acc : Nat) (cs : List Char) :
    digitsValue base acc (cs.map Char.toUpper) = digitsValue base acc cs := by
  induction cs generalizing acc with
  | nil => rfl
  | cons c rest ih => simp only [List.map_cons, digitsValue, digitValue_toUpper, ih]

/-- A hex number is `0x` and one digit or more. -/
theorem hexNumber_eq {cs : List Char} (h : cs ≠ []) : hexNumber ('0' :: 'x' :: cs) = digitsValue 16 0 cs := by
  match cs with
  | [] => exact absurd rfl h
  | _ :: _ => rfl

/-- The decimal digits of a number are read as that number (R69). -/
theorem decNumber_toDigits (n : Nat) : decNumber (Nat.toDigits 10 n) = some n := by
  simp only [decNumber, List.isEmpty_iff, toDigits_ne_nil (by decide : 1 < 10) n, if_false,
    digitsValue_toDigits (by decide : 1 < 10) (by decide)]

/-- `0x` and the hex digits of a number are read as that number (R68). -/
theorem hexNumber_toDigits (n : Nat) : hexNumber ('0' :: 'x' :: Nat.toDigits 16 n) = some n := by
  rw [hexNumber_eq (toDigits_ne_nil (by decide) n), digitsValue_toDigits (by decide) (by decide)]

end Sys2Proof.Machine
end

