-- ==== Sys2Proof/Laws/State.lean ====
section
/-! SUPPORT. Sys2Proof/Laws/State.lean: what each named update of the state leaves in each field. -/
namespace Sys2Proof.Machine

variable (s : State)

/-! ## `State.launch` -/

@[simp] theorem State.launch_base (v : Word) : (s.launch v).base = s.base := rfl
@[simp] theorem State.launch_bufBytes (v : Word) : (s.launch v).bufBytes = s.bufBytes := rfl
@[simp] theorem State.launch_key (v : Word) : (s.launch v).key = s.key := rfl
@[simp] theorem State.launch_rk (v : Word) : (s.launch v).rk = s.rk := rfl
@[simp] theorem State.launch_keyValid (v : Word) : (s.launch v).keyValid = s.keyValid := rfl
@[simp] theorem State.launch_keyin (v : Word) : (s.launch v).keyin = s.keyin := rfl
@[simp] theorem State.launch_chain (v : Word) : (s.launch v).chain = s.chain := rfl
@[simp] theorem State.launch_din (v : Word) : (s.launch v).din = s.din := rfl
@[simp] theorem State.launch_dout (v : Word) : (s.launch v).dout = s.dout := rfl
@[simp] theorem State.launch_ibuf (v : Word) : (s.launch v).ibuf = s.ibuf := rfl
@[simp] theorem State.launch_obuf (v : Word) : (s.launch v).obuf = s.obuf := rfl
@[simp] theorem State.launch_msgLen (v : Word) : (s.launch v).msgLen = s.msgLen := rfl
@[simp] theorem State.launch_outLen (v : Word) : (s.launch v).outLen = s.outLen := rfl
@[simp] theorem State.launch_ie (v : Word) : (s.launch v).ie = s.ie := rfl
@[simp] theorem State.launch_trimTrail (v : Word) : (s.launch v).trimTrail = s.trimTrail := rfl
@[simp] theorem State.launch_trimLead (v : Word) : (s.launch v).trimLead = s.trimLead := rfl
@[simp] theorem State.launch_done (v : Word) : (s.launch v).done = false := rfl
@[simp] theorem State.launch_ovr (v : Word) : (s.launch v).ovr = s.ovr := rfl
@[simp] theorem State.launch_err (v : Word) : (s.launch v).err = .ok := rfl
@[simp] theorem State.launch_pend (v : Word) : (s.launch v).pend = some v := rfl
@[simp] theorem State.launch_rstN (v : Word) : (s.launch v).rstN = s.rstN := rfl
@[simp] theorem State.launch_host (v : Word) : (s.launch v).host = s.host := rfl
@[simp] theorem State.launch_reply (v : Word) : (s.launch v).reply = s.reply := rfl
@[simp] theorem State.launch_draws (v : Word) : (s.launch v).draws = s.draws := rfl

/-! ## `State.finish` -/

@[simp] theorem State.finish_base (c : ErrCode) : (s.finish c).base = s.base := rfl
@[simp] theorem State.finish_bufBytes (c : ErrCode) : (s.finish c).bufBytes = s.bufBytes := rfl
@[simp] theorem State.finish_key (c : ErrCode) : (s.finish c).key = s.key := rfl
@[simp] theorem State.finish_rk (c : ErrCode) : (s.finish c).rk = s.rk := rfl
@[simp] theorem State.finish_keyValid (c : ErrCode) : (s.finish c).keyValid = s.keyValid := rfl
@[simp] theorem State.finish_keyin (c : ErrCode) : (s.finish c).keyin = s.keyin := rfl
@[simp] theorem State.finish_chain (c : ErrCode) : (s.finish c).chain = s.chain := rfl
@[simp] theorem State.finish_din (c : ErrCode) : (s.finish c).din = s.din := rfl
@[simp] theorem State.finish_dout (c : ErrCode) : (s.finish c).dout = s.dout := rfl
@[simp] theorem State.finish_ibuf (c : ErrCode) : (s.finish c).ibuf = s.ibuf := rfl
@[simp] theorem State.finish_obuf (c : ErrCode) : (s.finish c).obuf = s.obuf := rfl
@[simp] theorem State.finish_msgLen (c : ErrCode) : (s.finish c).msgLen = s.msgLen := rfl
@[simp] theorem State.finish_outLen (c : ErrCode) : (s.finish c).outLen = s.outLen := rfl
@[simp] theorem State.finish_ie (c : ErrCode) : (s.finish c).ie = s.ie := rfl
@[simp] theorem State.finish_trimTrail (c : ErrCode) : (s.finish c).trimTrail = s.trimTrail := rfl
@[simp] theorem State.finish_trimLead (c : ErrCode) : (s.finish c).trimLead = s.trimLead := rfl
@[simp] theorem State.finish_done (c : ErrCode) : (s.finish c).done = true := rfl
@[simp] theorem State.finish_ovr (c : ErrCode) : (s.finish c).ovr = s.ovr := rfl
@[simp] theorem State.finish_err (c : ErrCode) : (s.finish c).err = c := rfl
@[simp] theorem State.finish_pend (c : ErrCode) : (s.finish c).pend = none := rfl
@[simp] theorem State.finish_rstN (c : ErrCode) : (s.finish c).rstN = s.rstN := rfl
@[simp] theorem State.finish_host (c : ErrCode) : (s.finish c).host = s.host := rfl
@[simp] theorem State.finish_reply (c : ErrCode) : (s.finish c).reply = s.reply := rfl
@[simp] theorem State.finish_draws (c : ErrCode) : (s.finish c).draws = s.draws := rfl

/-! ## `State.complete` -/

@[simp] theorem State.complete_base : (s.complete).base = s.base := rfl
@[simp] theorem State.complete_bufBytes : (s.complete).bufBytes = s.bufBytes := rfl
@[simp] theorem State.complete_key : (s.complete).key = s.key := rfl
@[simp] theorem State.complete_rk : (s.complete).rk = s.rk := rfl
@[simp] theorem State.complete_keyValid : (s.complete).keyValid = s.keyValid := rfl
@[simp] theorem State.complete_keyin : (s.complete).keyin = s.keyin := rfl
@[simp] theorem State.complete_chain : (s.complete).chain = s.chain := rfl
@[simp] theorem State.complete_din : (s.complete).din = s.din := rfl
@[simp] theorem State.complete_dout : (s.complete).dout = s.dout := rfl
@[simp] theorem State.complete_ibuf : (s.complete).ibuf = s.ibuf := rfl
@[simp] theorem State.complete_obuf : (s.complete).obuf = s.obuf := rfl
@[simp] theorem State.complete_msgLen : (s.complete).msgLen = s.msgLen := rfl
@[simp] theorem State.complete_outLen : (s.complete).outLen = s.outLen := rfl
@[simp] theorem State.complete_ie : (s.complete).ie = s.ie := rfl
@[simp] theorem State.complete_trimTrail : (s.complete).trimTrail = s.trimTrail := rfl
@[simp] theorem State.complete_trimLead : (s.complete).trimLead = s.trimLead := rfl
@[simp] theorem State.complete_done : (s.complete).done = true := rfl
@[simp] theorem State.complete_ovr : (s.complete).ovr = s.ovr := rfl
@[simp] theorem State.complete_err : (s.complete).err = .ok := rfl
@[simp] theorem State.complete_pend : (s.complete).pend = none := rfl
@[simp] theorem State.complete_rstN : (s.complete).rstN = s.rstN := rfl
@[simp] theorem State.complete_host : (s.complete).host = s.host := rfl
@[simp] theorem State.complete_reply : (s.complete).reply = s.reply := rfl
@[simp] theorem State.complete_draws : (s.complete).draws = s.draws := rfl

/-! ## `State.raiseError` -/

@[simp] theorem State.raiseError_base (c : ErrCode) : (s.raiseError c).base = s.base := rfl
@[simp] theorem State.raiseError_bufBytes (c : ErrCode) : (s.raiseError c).bufBytes = s.bufBytes := rfl
@[simp] theorem State.raiseError_key (c : ErrCode) : (s.raiseError c).key = s.key := rfl
@[simp] theorem State.raiseError_rk (c : ErrCode) : (s.raiseError c).rk = s.rk := rfl
@[simp] theorem State.raiseError_keyValid (c : ErrCode) : (s.raiseError c).keyValid = s.keyValid := rfl
@[simp] theorem State.raiseError_keyin (c : ErrCode) : (s.raiseError c).keyin = s.keyin := rfl
@[simp] theorem State.raiseError_chain (c : ErrCode) : (s.raiseError c).chain = s.chain := rfl
@[simp] theorem State.raiseError_din (c : ErrCode) : (s.raiseError c).din = s.din := rfl
@[simp] theorem State.raiseError_dout (c : ErrCode) : (s.raiseError c).dout = s.dout := rfl
@[simp] theorem State.raiseError_ibuf (c : ErrCode) : (s.raiseError c).ibuf = s.ibuf := rfl
@[simp] theorem State.raiseError_obuf (c : ErrCode) : (s.raiseError c).obuf = s.obuf := rfl
@[simp] theorem State.raiseError_msgLen (c : ErrCode) : (s.raiseError c).msgLen = s.msgLen := rfl
@[simp] theorem State.raiseError_outLen (c : ErrCode) : (s.raiseError c).outLen = s.outLen := rfl
@[simp] theorem State.raiseError_ie (c : ErrCode) : (s.raiseError c).ie = s.ie := rfl
@[simp] theorem State.raiseError_trimTrail (c : ErrCode) : (s.raiseError c).trimTrail = s.trimTrail := rfl
@[simp] theorem State.raiseError_trimLead (c : ErrCode) : (s.raiseError c).trimLead = s.trimLead := rfl
@[simp] theorem State.raiseError_done (c : ErrCode) : (s.raiseError c).done = true := rfl
@[simp] theorem State.raiseError_ovr (c : ErrCode) : (s.raiseError c).ovr = s.ovr := rfl
@[simp] theorem State.raiseError_err (c : ErrCode) : (s.raiseError c).err = c := rfl
@[simp] theorem State.raiseError_pend (c : ErrCode) : (s.raiseError c).pend = none := rfl
@[simp] theorem State.raiseError_rstN (c : ErrCode) : (s.raiseError c).rstN = s.rstN := rfl
@[simp] theorem State.raiseError_host (c : ErrCode) : (s.raiseError c).host = s.host := rfl
@[simp] theorem State.raiseError_reply (c : ErrCode) : (s.raiseError c).reply = s.reply := rfl
@[simp] theorem State.raiseError_draws (c : ErrCode) : (s.raiseError c).draws = s.draws := rfl

/-! ## `State.output` -/

@[simp] theorem State.output_base (S : Bytes) : (s.output S).base = s.base := rfl
@[simp] theorem State.output_bufBytes (S : Bytes) : (s.output S).bufBytes = s.bufBytes := rfl
@[simp] theorem State.output_key (S : Bytes) : (s.output S).key = s.key := rfl
@[simp] theorem State.output_rk (S : Bytes) : (s.output S).rk = s.rk := rfl
@[simp] theorem State.output_keyValid (S : Bytes) : (s.output S).keyValid = s.keyValid := rfl
@[simp] theorem State.output_keyin (S : Bytes) : (s.output S).keyin = s.keyin := rfl
@[simp] theorem State.output_chain (S : Bytes) : (s.output S).chain = s.chain := rfl
@[simp] theorem State.output_din (S : Bytes) : (s.output S).din = s.din := rfl
@[simp] theorem State.output_dout (S : Bytes) : (s.output S).dout = s.dout := rfl
@[simp] theorem State.output_ibuf (S : Bytes) : (s.output S).ibuf = s.ibuf := rfl
@[simp] theorem State.output_obuf (S : Bytes) : (s.output S).obuf = Memory.filled s.draws S := rfl
@[simp] theorem State.output_msgLen (S : Bytes) : (s.output S).msgLen = s.msgLen := rfl
@[simp] theorem State.output_outLen (S : Bytes) : (s.output S).outLen = BitVec.ofNat 16 S.length := rfl
@[simp] theorem State.output_ie (S : Bytes) : (s.output S).ie = s.ie := rfl
@[simp] theorem State.output_trimTrail (S : Bytes) : (s.output S).trimTrail = s.trimTrail := rfl
@[simp] theorem State.output_trimLead (S : Bytes) : (s.output S).trimLead = s.trimLead := rfl
@[simp] theorem State.output_done (S : Bytes) : (s.output S).done = s.done := rfl
@[simp] theorem State.output_ovr (S : Bytes) : (s.output S).ovr = s.ovr := rfl
@[simp] theorem State.output_err (S : Bytes) : (s.output S).err = s.err := rfl
@[simp] theorem State.output_pend (S : Bytes) : (s.output S).pend = s.pend := rfl
@[simp] theorem State.output_rstN (S : Bytes) : (s.output S).rstN = s.rstN := rfl
@[simp] theorem State.output_host (S : Bytes) : (s.output S).host = s.host := rfl
@[simp] theorem State.output_reply (S : Bytes) : (s.output S).reply = s.reply := rfl
@[simp] theorem State.output_draws (S : Bytes) : (s.output S).draws = s.draws + 1 := rfl

/-! ## `State.loadKey` -/

@[simp] theorem State.loadKey_base (k : Block) : (s.loadKey k).base = s.base := rfl
@[simp] theorem State.loadKey_bufBytes (k : Block) : (s.loadKey k).bufBytes = s.bufBytes := rfl
@[simp] theorem State.loadKey_key (k : Block) : (s.loadKey k).key = k := rfl
@[simp] theorem State.loadKey_rk (k : Block) : (s.loadKey k).rk = keyExpansion k := rfl
@[simp] theorem State.loadKey_keyValid (k : Block) : (s.loadKey k).keyValid = true := rfl
@[simp] theorem State.loadKey_keyin (k : Block) : (s.loadKey k).keyin = s.keyin := rfl
@[simp] theorem State.loadKey_chain (k : Block) : (s.loadKey k).chain = s.chain := rfl
@[simp] theorem State.loadKey_din (k : Block) : (s.loadKey k).din = s.din := rfl
@[simp] theorem State.loadKey_dout (k : Block) : (s.loadKey k).dout = s.dout := rfl
@[simp] theorem State.loadKey_ibuf (k : Block) : (s.loadKey k).ibuf = s.ibuf := rfl
@[simp] theorem State.loadKey_obuf (k : Block) : (s.loadKey k).obuf = s.obuf := rfl
@[simp] theorem State.loadKey_msgLen (k : Block) : (s.loadKey k).msgLen = s.msgLen := rfl
@[simp] theorem State.loadKey_outLen (k : Block) : (s.loadKey k).outLen = s.outLen := rfl
@[simp] theorem State.loadKey_ie (k : Block) : (s.loadKey k).ie = s.ie := rfl
@[simp] theorem State.loadKey_trimTrail (k : Block) : (s.loadKey k).trimTrail = s.trimTrail := rfl
@[simp] theorem State.loadKey_trimLead (k : Block) : (s.loadKey k).trimLead = s.trimLead := rfl
@[simp] theorem State.loadKey_done (k : Block) : (s.loadKey k).done = s.done := rfl
@[simp] theorem State.loadKey_ovr (k : Block) : (s.loadKey k).ovr = s.ovr := rfl
@[simp] theorem State.loadKey_err (k : Block) : (s.loadKey k).err = s.err := rfl
@[simp] theorem State.loadKey_pend (k : Block) : (s.loadKey k).pend = s.pend := rfl
@[simp] theorem State.loadKey_rstN (k : Block) : (s.loadKey k).rstN = s.rstN := rfl
@[simp] theorem State.loadKey_host (k : Block) : (s.loadKey k).host = s.host := rfl
@[simp] theorem State.loadKey_reply (k : Block) : (s.loadKey k).reply = s.reply := rfl
@[simp] theorem State.loadKey_draws (k : Block) : (s.loadKey k).draws = s.draws := rfl

/-! ## `State.writeStatus` -/

@[simp] theorem State.writeStatus_base (v : Word) : (s.writeStatus v).base = s.base := rfl
@[simp] theorem State.writeStatus_bufBytes (v : Word) : (s.writeStatus v).bufBytes = s.bufBytes := rfl
@[simp] theorem State.writeStatus_key (v : Word) : (s.writeStatus v).key = s.key := rfl
@[simp] theorem State.writeStatus_rk (v : Word) : (s.writeStatus v).rk = s.rk := rfl
@[simp] theorem State.writeStatus_keyValid (v : Word) : (s.writeStatus v).keyValid = s.keyValid := rfl
@[simp] theorem State.writeStatus_keyin (v : Word) : (s.writeStatus v).keyin = s.keyin := rfl
@[simp] theorem State.writeStatus_chain (v : Word) : (s.writeStatus v).chain = s.chain := rfl
@[simp] theorem State.writeStatus_din (v : Word) : (s.writeStatus v).din = s.din := rfl
@[simp] theorem State.writeStatus_dout (v : Word) : (s.writeStatus v).dout = s.dout := rfl
@[simp] theorem State.writeStatus_ibuf (v : Word) : (s.writeStatus v).ibuf = s.ibuf := rfl
@[simp] theorem State.writeStatus_obuf (v : Word) : (s.writeStatus v).obuf = s.obuf := rfl
@[simp] theorem State.writeStatus_msgLen (v : Word) : (s.writeStatus v).msgLen = s.msgLen := rfl
@[simp] theorem State.writeStatus_outLen (v : Word) : (s.writeStatus v).outLen = s.outLen := rfl
@[simp] theorem State.writeStatus_ie (v : Word) : (s.writeStatus v).ie = s.ie := rfl
@[simp] theorem State.writeStatus_trimTrail (v : Word) : (s.writeStatus v).trimTrail = s.trimTrail := rfl
@[simp] theorem State.writeStatus_trimLead (v : Word) : (s.writeStatus v).trimLead = s.trimLead := rfl
@[simp] theorem State.writeStatus_done (v : Word) : (s.writeStatus v).done = (s.done && !(v.getLsbD 1)) := rfl
@[simp] theorem State.writeStatus_ovr (v : Word) : (s.writeStatus v).ovr = (s.ovr && !(v.getLsbD 3)) := rfl
@[simp] theorem State.writeStatus_err (v : Word) : (s.writeStatus v).err = s.err := rfl
@[simp] theorem State.writeStatus_pend (v : Word) : (s.writeStatus v).pend = s.pend := rfl
@[simp] theorem State.writeStatus_rstN (v : Word) : (s.writeStatus v).rstN = s.rstN := rfl
@[simp] theorem State.writeStatus_host (v : Word) : (s.writeStatus v).host = s.host := rfl
@[simp] theorem State.writeStatus_reply (v : Word) : (s.writeStatus v).reply = s.reply := rfl
@[simp] theorem State.writeStatus_draws (v : Word) : (s.writeStatus v).draws = s.draws := rfl

/-! ## `State.writeCtrl` -/

@[simp] theorem State.writeCtrl_base (v : Word) : (s.writeCtrl v).base = s.base := rfl
@[simp] theorem State.writeCtrl_bufBytes (v : Word) : (s.writeCtrl v).bufBytes = s.bufBytes := rfl
@[simp] theorem State.writeCtrl_key (v : Word) : (s.writeCtrl v).key = s.key := rfl
@[simp] theorem State.writeCtrl_rk (v : Word) : (s.writeCtrl v).rk = s.rk := rfl
@[simp] theorem State.writeCtrl_keyValid (v : Word) : (s.writeCtrl v).keyValid = s.keyValid := rfl
@[simp] theorem State.writeCtrl_keyin (v : Word) : (s.writeCtrl v).keyin = s.keyin := rfl
@[simp] theorem State.writeCtrl_chain (v : Word) : (s.writeCtrl v).chain = s.chain := rfl
@[simp] theorem State.writeCtrl_din (v : Word) : (s.writeCtrl v).din = s.din := rfl
@[simp] theorem State.writeCtrl_dout (v : Word) : (s.writeCtrl v).dout = s.dout := rfl
@[simp] theorem State.writeCtrl_ibuf (v : Word) : (s.writeCtrl v).ibuf = s.ibuf := rfl
@[simp] theorem State.writeCtrl_obuf (v : Word) : (s.writeCtrl v).obuf = s.obuf := rfl
@[simp] theorem State.writeCtrl_msgLen (v : Word) : (s.writeCtrl v).msgLen = s.msgLen := rfl
@[simp] theorem State.writeCtrl_outLen (v : Word) : (s.writeCtrl v).outLen = s.outLen := rfl
@[simp] theorem State.writeCtrl_ie (v : Word) : (s.writeCtrl v).ie = v.getLsbD 0 := rfl
@[simp] theorem State.writeCtrl_trimTrail (v : Word) : (s.writeCtrl v).trimTrail = v.getLsbD 1 := rfl
@[simp] theorem State.writeCtrl_trimLead (v : Word) : (s.writeCtrl v).trimLead = v.getLsbD 2 := rfl
@[simp] theorem State.writeCtrl_done (v : Word) : (s.writeCtrl v).done = s.done := rfl
@[simp] theorem State.writeCtrl_ovr (v : Word) : (s.writeCtrl v).ovr = s.ovr := rfl
@[simp] theorem State.writeCtrl_err (v : Word) : (s.writeCtrl v).err = s.err := rfl
@[simp] theorem State.writeCtrl_pend (v : Word) : (s.writeCtrl v).pend = s.pend := rfl
@[simp] theorem State.writeCtrl_rstN (v : Word) : (s.writeCtrl v).rstN = s.rstN := rfl
@[simp] theorem State.writeCtrl_host (v : Word) : (s.writeCtrl v).host = s.host := rfl
@[simp] theorem State.writeCtrl_reply (v : Word) : (s.writeCtrl v).reply = s.reply := rfl
@[simp] theorem State.writeCtrl_draws (v : Word) : (s.writeCtrl v).draws = s.draws := rfl

/-! ## `State.withFetchWord` -/

@[simp] theorem State.withFetchWord_base (nbits w : Nat) : (s.withFetchWord nbits w).base = s.base := rfl
@[simp] theorem State.withFetchWord_bufBytes (nbits w : Nat) : (s.withFetchWord nbits w).bufBytes = s.bufBytes := rfl
@[simp] theorem State.withFetchWord_key (nbits w : Nat) : (s.withFetchWord nbits w).key = s.key := rfl
@[simp] theorem State.withFetchWord_rk (nbits w : Nat) : (s.withFetchWord nbits w).rk = s.rk := rfl
@[simp] theorem State.withFetchWord_keyValid (nbits w : Nat) : (s.withFetchWord nbits w).keyValid = s.keyValid := rfl
@[simp] theorem State.withFetchWord_keyin (nbits w : Nat) : (s.withFetchWord nbits w).keyin = s.keyin := rfl
@[simp] theorem State.withFetchWord_chain (nbits w : Nat) : (s.withFetchWord nbits w).chain = s.chain := rfl
@[simp] theorem State.withFetchWord_din (nbits w : Nat) : (s.withFetchWord nbits w).din = s.din := rfl
@[simp] theorem State.withFetchWord_dout (nbits w : Nat) : (s.withFetchWord nbits w).dout = s.dout := rfl
@[simp] theorem State.withFetchWord_ibuf (nbits w : Nat) : (s.withFetchWord nbits w).ibuf = s.ibuf := rfl
@[simp] theorem State.withFetchWord_obuf (nbits w : Nat) : (s.withFetchWord nbits w).obuf = s.obuf := rfl
@[simp] theorem State.withFetchWord_msgLen (nbits w : Nat) : (s.withFetchWord nbits w).msgLen = s.msgLen := rfl
@[simp] theorem State.withFetchWord_outLen (nbits w : Nat) : (s.withFetchWord nbits w).outLen = s.outLen := rfl
@[simp] theorem State.withFetchWord_ie (nbits w : Nat) : (s.withFetchWord nbits w).ie = s.ie := rfl
@[simp] theorem State.withFetchWord_trimTrail (nbits w : Nat) : (s.withFetchWord nbits w).trimTrail = s.trimTrail := rfl
@[simp] theorem State.withFetchWord_trimLead (nbits w : Nat) : (s.withFetchWord nbits w).trimLead = s.trimLead := rfl
@[simp] theorem State.withFetchWord_done (nbits w : Nat) : (s.withFetchWord nbits w).done = s.done := rfl
@[simp] theorem State.withFetchWord_ovr (nbits w : Nat) : (s.withFetchWord nbits w).ovr = s.ovr := rfl
@[simp] theorem State.withFetchWord_err (nbits w : Nat) : (s.withFetchWord nbits w).err = s.err := rfl
@[simp] theorem State.withFetchWord_pend (nbits w : Nat) : (s.withFetchWord nbits w).pend = some (tableWord nbits w) := rfl
@[simp] theorem State.withFetchWord_rstN (nbits w : Nat) : (s.withFetchWord nbits w).rstN = true := rfl
@[simp] theorem State.withFetchWord_host (nbits w : Nat) : (s.withFetchWord nbits w).host = .engine :: s.host := rfl
@[simp] theorem State.withFetchWord_reply (nbits w : Nat) : (s.withFetchWord nbits w).reply = s.reply := rfl
@[simp] theorem State.withFetchWord_draws (nbits w : Nat) : (s.withFetchWord nbits w).draws = s.draws := rfl

/-! ## `State.resetValues` -/

@[simp] theorem State.resetValues_base : (s.resetValues).base = s.base := rfl
@[simp] theorem State.resetValues_bufBytes : (s.resetValues).bufBytes = s.bufBytes := rfl
@[simp] theorem State.resetValues_key : (s.resetValues).key = zeroBlock := rfl
@[simp] theorem State.resetValues_rk : (s.resetValues).rk = zeroKeys := rfl
@[simp] theorem State.resetValues_keyValid : (s.resetValues).keyValid = false := rfl
@[simp] theorem State.resetValues_keyin : (s.resetValues).keyin = zeroBlock := rfl
@[simp] theorem State.resetValues_chain : (s.resetValues).chain = iv := rfl
@[simp] theorem State.resetValues_din : (s.resetValues).din = zeroBlock := rfl
@[simp] theorem State.resetValues_dout : (s.resetValues).dout = zeroBlock := rfl
@[simp] theorem State.resetValues_ibuf : (s.resetValues).ibuf = ⟨[], s.draws⟩ := rfl
@[simp] theorem State.resetValues_obuf : (s.resetValues).obuf = ⟨[], s.draws + 1⟩ := rfl
@[simp] theorem State.resetValues_msgLen : (s.resetValues).msgLen = 0#16 := rfl
@[simp] theorem State.resetValues_outLen : (s.resetValues).outLen = 0#16 := rfl
@[simp] theorem State.resetValues_ie : (s.resetValues).ie = false := rfl
@[simp] theorem State.resetValues_trimTrail : (s.resetValues).trimTrail = true := rfl
@[simp] theorem State.resetValues_trimLead : (s.resetValues).trimLead = true := rfl
@[simp] theorem State.resetValues_done : (s.resetValues).done = false := rfl
@[simp] theorem State.resetValues_ovr : (s.resetValues).ovr = false := rfl
@[simp] theorem State.resetValues_err : (s.resetValues).err = .ok := rfl
@[simp] theorem State.resetValues_pend : (s.resetValues).pend = none := rfl
@[simp] theorem State.resetValues_rstN : (s.resetValues).rstN = s.rstN := rfl
@[simp] theorem State.resetValues_host : (s.resetValues).host = s.host := rfl
@[simp] theorem State.resetValues_reply : (s.resetValues).reply = s.reply := rfl
@[simp] theorem State.resetValues_draws : (s.resetValues).draws = s.draws + 2 := rfl

/-! ## `State.assertReset` -/

@[simp] theorem State.assertReset_base : (s.assertReset).base = s.base := rfl
@[simp] theorem State.assertReset_bufBytes : (s.assertReset).bufBytes = s.bufBytes := rfl
@[simp] theorem State.assertReset_key : (s.assertReset).key = zeroBlock := rfl
@[simp] theorem State.assertReset_rk : (s.assertReset).rk = zeroKeys := rfl
@[simp] theorem State.assertReset_keyValid : (s.assertReset).keyValid = false := rfl
@[simp] theorem State.assertReset_keyin : (s.assertReset).keyin = zeroBlock := rfl
@[simp] theorem State.assertReset_chain : (s.assertReset).chain = iv := rfl
@[simp] theorem State.assertReset_din : (s.assertReset).din = zeroBlock := rfl
@[simp] theorem State.assertReset_dout : (s.assertReset).dout = zeroBlock := rfl
@[simp] theorem State.assertReset_ibuf : (s.assertReset).ibuf = ⟨[], s.draws⟩ := rfl
@[simp] theorem State.assertReset_obuf : (s.assertReset).obuf = ⟨[], s.draws + 1⟩ := rfl
@[simp] theorem State.assertReset_msgLen : (s.assertReset).msgLen = 0#16 := rfl
@[simp] theorem State.assertReset_outLen : (s.assertReset).outLen = 0#16 := rfl
@[simp] theorem State.assertReset_ie : (s.assertReset).ie = false := rfl
@[simp] theorem State.assertReset_trimTrail : (s.assertReset).trimTrail = true := rfl
@[simp] theorem State.assertReset_trimLead : (s.assertReset).trimLead = true := rfl
@[simp] theorem State.assertReset_done : (s.assertReset).done = false := rfl
@[simp] theorem State.assertReset_ovr : (s.assertReset).ovr = false := rfl
@[simp] theorem State.assertReset_err : (s.assertReset).err = .ok := rfl
@[simp] theorem State.assertReset_pend : (s.assertReset).pend = none := rfl
@[simp] theorem State.assertReset_rstN : (s.assertReset).rstN = false := rfl
@[simp] theorem State.assertReset_host : (s.assertReset).host = s.host := rfl
@[simp] theorem State.assertReset_reply : (s.assertReset).reply = s.reply := rfl
@[simp] theorem State.assertReset_draws : (s.assertReset).draws = s.draws + 2 := rfl

end Sys2Proof.Machine
end

