-- ==== Sys2Proof/Laws/Bytes.lean ====
section
/-! SUPPORT. Sys2Proof/Laws/Bytes.lean: 16-byte values as byte strings and as bus words, and their exclusive-or. -/
namespace Sys2Proof.Machine

@[simp] theorem length_columnBytes (c : Column) : (columnBytes c).length = 4 := rfl

@[simp] theorem length_blockBytesOf (b : Block) : (blockBytesOf b).length = 16 := rfl

@[simp] theorem length_repByte (n : Nat) (b : Byte) : (repByte n b).length = n := by simp [repByte]

@[simp] theorem length_zeros (n : Nat) : (zeros n).length = n := by simp [zeros]

/-- A block is the first 16 bytes of its byte string. -/
theorem blockOfBytes_append (b : Block) (S : Bytes) : blockOfBytes (blockBytesOf b ++ S) = b := rfl

@[simp] theorem blockOfBytes_blockBytesOf (b : Block) : blockOfBytes (blockBytesOf b) = b := rfl

/-- The byte string of the block that 16 bytes make is those bytes (R12). -/
theorem blockBytesOf_blockOfBytes {S : Bytes} (h : S.length = 16) : blockBytesOf (blockOfBytes S) = S := by
  match S, h with
  | [_, _, _, _, _, _, _, _, _, _, _, _, _, _, _, _], _ => rfl

@[simp] theorem length_blocksOfBytes (n : Nat) (S : Bytes) : (blocksOfBytes n S).length = n := by
  induction n generalizing S with
  | zero => rfl
  | succ k ih => simp [blocksOfBytes, ih]

@[simp] theorem bytesOfBlocks_nil : bytesOfBlocks [] = [] := rfl

@[simp] theorem bytesOfBlocks_cons (b : Block) (bs : List Block) :
    bytesOfBlocks (b :: bs) = blockBytesOf b ++ bytesOfBlocks bs := by simp [bytesOfBlocks]

@[simp] theorem length_bytesOfBlocks (bs : List Block) : (bytesOfBlocks bs).length = 16 * bs.length := by
  induction bs with
  | nil => rfl
  | cons b rest ih => simp [ih]; omega

/-- Cutting the byte string of a list of blocks into blocks gives the list back (R105). -/
theorem blocksOfBytes_bytesOfBlocks (bs : List Block) : blocksOfBytes bs.length (bytesOfBlocks bs) = bs := by
  induction bs with
  | nil => rfl
  | cons b rest ih =>
    have hd : (blockBytesOf b ++ bytesOfBlocks rest).drop 16 = bytesOfBlocks rest := rfl
    simp [blocksOfBytes, blockOfBytes_append, hd, ih]

/-- A byte string of `16n` bytes is the byte string of its blocks (R105). -/
theorem bytesOfBlocks_blocksOfBytes (n : Nat) {S : Bytes} (h : S.length = 16 * n) :
    bytesOfBlocks (blocksOfBytes n S) = S := by
  induction n generalizing S with
  | zero => exact (List.eq_nil_of_length_eq_zero (by simpa using h)).symm
  | succ k ih =>
    have h16 : (S.take 16).length = 16 := by simp; omega
    have hb : blockOfBytes S = blockOfBytes (S.take 16) := by
      match S, h16 with
      | _ :: _ :: _ :: _ :: _ :: _ :: _ :: _ :: _ :: _ :: _ :: _ :: _ :: _ :: _ :: _ :: _, _ => rfl
    rw [blocksOfBytes, bytesOfBlocks_cons, ih (by simp; omega), hb, blockBytesOf_blockOfBytes h16, List.take_append_drop]

/-- Bit `i` of a packed word is bit `i mod 8` of byte `i div 8` (R48). -/
theorem getLsbD_packWord (c : Column) (i : Nat) :
    (packWord c).getLsbD i =
      if i < 8 then c.b0.getLsbD i else if i < 16 then c.b1.getLsbD (i - 8) else if i < 24 then c.b2.getLsbD (i - 16)
      else c.b3.getLsbD (i - 24) := by
  have big : ∀ (b : Byte) (k : Nat), 8 ≤ k → b.getLsbD k = false := fun b k h => BitVec.getLsbD_of_ge b k h
  simp only [packWord, BitVec.getLsbD_or, BitVec.getLsbD_setWidth, BitVec.getLsbD_shiftLeft]
  split_ifs with h1 h2 h3
  · have : i < 32 := by omega
    have : i < 16 := by omega
    have : i < 24 := by omega
    simp [*]
  · have : i < 32 := by omega
    have : i < 24 := by omega
    have : i - 8 < 32 := by omega
    simp [*, big c.b0 i (by omega)]
  · have : i < 32 := by omega
    have : i - 16 < 32 := by omega
    have : i - 8 < 32 := by omega
    simp [*, big c.b0 i (by omega), big c.b1 (i - 8) (by omega)]
  · by_cases h : i < 32
    · have : i - 16 < 32 := by omega
      have : i - 24 < 32 := by omega
      simp [*, big c.b0 i (by omega), big c.b1 (i - 8) (by omega), big c.b2 (i - 16) (by omega)]
    · simp [h, big c.b0 i (by omega), big c.b3 (i - 24) (by omega)]

/-- The four bytes of a word that packs a column are the column (R48). -/
@[simp] theorem unpackWord_packWord (c : Column) : unpackWord (packWord c) = c := by
  have step : ∀ (k : Nat) (b : Byte), (∀ j, j < 8 → (packWord c).getLsbD (k + j) = b.getLsbD j) →
      (packWord c).extractLsb' k 8 = b := by
    intro k b h
    apply BitVec.eq_of_getLsbD_eq
    intro j hj
    simp [hj, h j hj]
  obtain ⟨a, b, d, e⟩ := c
  simp only [unpackWord, Column.mk.injEq]
  refine ⟨step 0 _ ?_, step 8 _ ?_, step 16 _ ?_, step 24 _ ?_⟩ <;> intro j hj <;> rw [getLsbD_packWord] <;> split_ifs <;>
    first | omega | simp

/-- The word that packs a word's four bytes is the word (R48). -/
@[simp] theorem packWord_unpackWord (w : Word) : packWord (unpackWord w) = w := by
  apply BitVec.eq_of_getLsbD_eq
  intro i hi
  rw [getLsbD_packWord]
  simp only [unpackWord, BitVec.getLsbD_extractLsb']
  split_ifs with h1 h2 h3
  · simp [h1]
  · have : i - 8 < 8 := by omega
    have e : 8 + (i - 8) = i := by omega
    simp [this, e]
  · have : i - 16 < 8 := by omega
    have e : 16 + (i - 16) = i := by omega
    simp [this, e]
  · have : i - 24 < 8 := by omega
    have e : 24 + (i - 24) = i := by omega
    simp [this, e]

/-- What a write of one word leaves in each word of a 16-byte register. -/
theorem blockColumn_setBlockColumn (x : Block) (j k : Fin 4) (c : Column) :
    blockColumn (setBlockColumn x j c) k = if k = j then c else blockColumn x k := by
  fin_cases j <;> fin_cases k <;> rfl

theorem xorColumn_cancel (a b : Column) : xorColumn (xorColumn a b) b = a := by
  simp [xorColumn]

/-- `xor` with the same block twice is the identity: AddRoundKey is its own inverse (R13, R92). -/
theorem xorBlock_cancel (a b : Block) : xorBlock (xorBlock a b) b = a := by
  simp [xorBlock, xorColumn_cancel]

end Sys2Proof.Machine
end

