-- ==== Sys2Proof/Laws/Memory.lean ====
section
/-! SUPPORT. Sys2Proof/Laws/Memory.lean: the buffers: a read after a write, and that every operation keeps the canonical form. -/
namespace Sys2Proof.Machine

/-! ## Cells -/

theorem findCell_putCell_same (i : Nat) (v : Byte) (cells : List Host.Cell) :
    findCell (putCell i v cells) i = some v := by
  induction cells with
  | nil => simp [putCell, findCell]
  | cons c rest ih =>
    obtain ⟨a, w⟩ := c
    simp only [putCell]
    split
    · simp [findCell]
    · split
      · simp [findCell]
      · rename_i _ hne
        simp [findCell, Ne.symm hne, ih]

theorem findCell_putCell_other {i j : Nat} (h : j ≠ i) (v : Byte) (cells : List Host.Cell) :
    findCell (putCell i v cells) j = findCell cells j := by
  induction cells with
  | nil => simp [putCell, findCell, Ne.symm h]
  | cons c rest ih =>
    obtain ⟨a, w⟩ := c
    simp only [putCell]
    split
    · simp [findCell, Ne.symm h]
    · split
      · rename_i heq
        simp [findCell, Ne.symm h, ← heq]
      · simp [findCell, ih]

/-- What a put leaves listed: the cell that was put, and cells that were there. -/
theorem mem_putCell {i : Nat} {v : Byte} {cells : List Host.Cell} {c : Host.Cell} (h : c ∈ putCell i v cells) :
    c = (i, v) ∨ c ∈ cells := by
  induction cells with
  | nil => simpa [putCell] using h
  | cons d rest ih =>
    obtain ⟨a, w⟩ := d
    simp only [putCell] at h
    split at h
    · simpa using h
    · split at h
      · rcases List.mem_cons.1 h with h | h
        · exact .inl h
        · exact .inr (List.mem_cons_of_mem _ h)
      · rcases List.mem_cons.1 h with h | h
        · exact .inr (by simp [h])
        · exact (ih h).imp id (List.mem_cons_of_mem _)

theorem putCell_rising (i : Nat) (v : Byte) {cells : List Host.Cell}
    (h : cells.Pairwise (fun a b => a.1 < b.1)) : (putCell i v cells).Pairwise (fun a b => a.1 < b.1) := by
  induction cells with
  | nil => simp [putCell]
  | cons d rest ih =>
    obtain ⟨a, w⟩ := d
    have ⟨hd, hr⟩ := List.pairwise_cons.1 h
    simp only [putCell]
    split
    · rename_i hlt
      refine List.pairwise_cons.2 ⟨fun c hc => ?_, h⟩
      rcases List.mem_cons.1 hc with hc | hc
      · simpa [hc] using hlt
      · exact Nat.lt_trans hlt (hd c hc)
    · split
      · rename_i heq
        subst heq
        exact List.pairwise_cons.2 ⟨hd, hr⟩
      · rename_i hge hne
        refine List.pairwise_cons.2 ⟨fun c hc => ?_, ih hr⟩
        rcases mem_putCell hc with hc | hc
        · simp only [hc]
          omega
        · exact hd c hc

/-- `cellsFrom` lists byte `k` of a string at index `i + k`, and nothing else. -/
theorem findCell_cellsFrom (S : Bytes) (i j : Nat) :
    findCell (cellsFrom i S) j = if i ≤ j then S[j - i]? else none := by
  induction S generalizing i with
  | nil => simp [cellsFrom, findCell]
  | cons b rest ih =>
    simp only [cellsFrom, findCell, ih]
    by_cases h : i = j
    · simp [h]
    · by_cases h2 : i + 1 ≤ j
      · have : j - i = (j - (i + 1)) + 1 := by omega
        simp [h, h2, this, Nat.le_of_succ_le h2]
      · have : ¬ i ≤ j := by omega
        simp [h, h2, this]

theorem map_fst_cellsFrom (S : Bytes) (i : Nat) : (cellsFrom i S).map Prod.fst = List.range' i S.length := by
  induction S generalizing i with
  | nil => rfl
  | cons b rest ih => simp [cellsFrom, ih, List.range'_succ]

theorem mem_cellsFrom {S : Bytes} {i : Nat} {c : Host.Cell} (h : c ∈ cellsFrom i S) : i ≤ c.1 ∧ c.1 < i + S.length := by
  have : c.1 ∈ (cellsFrom i S).map Prod.fst := List.mem_map_of_mem h
  rw [map_fst_cellsFrom, List.mem_range'_1] at this
  exact this

/-! ## Buffers -/

theorem Memory.read_write_same (m : Memory) (i : Nat) (v : Byte) : (m.write i v).read i = v := by
  simp [Memory.read, Memory.write, findCell_putCell_same]

theorem Memory.read_write_other (m : Memory) {i j : Nat} (h : j ≠ i) (v : Byte) : (m.write i v).read j = m.read j := by
  simp [Memory.read, Memory.write, findCell_putCell_other h, Memory.unlisted]

/-- What a write does to every byte. -/
theorem Memory.read_write (m : Memory) (i j : Nat) (v : Byte) :
    (m.write i v).read j = if j = i then v else m.read j := by
  by_cases h : j = i
  · simp [h, Memory.read_write_same]
  · simp [h, Memory.read_write_other m h]

theorem Memory.write_wf {m : Memory} (h : m.wf) (i : Nat) (v : Byte) : (m.write i v).wf := putCell_rising i v h

theorem Memory.write_within {m : Memory} {n i : Nat} (h : m.within n) (hi : i < n) (v : Byte) : (m.write i v).within n := by
  intro c hc
  rcases mem_putCell hc with hc | hc
  · simpa [hc] using hi
  · exact h c hc

@[simp] theorem Memory.write_gen (m : Memory) (i : Nat) (v : Byte) : (m.write i v).gen = m.gen := rfl

theorem Memory.writeColumn_wf {m : Memory} (h : m.wf) (i : Nat) (c : Column) : (m.writeColumn i c).wf :=
  Memory.write_wf (Memory.write_wf (Memory.write_wf (Memory.write_wf h _ _) _ _) _ _) _ _

theorem Memory.writeColumn_within {m : Memory} {n i : Nat} (h : m.within n) (hi : i + 4 ≤ n) (c : Column) :
    (m.writeColumn i c).within n :=
  Memory.write_within (Memory.write_within (Memory.write_within (Memory.write_within h (by omega) _) (by omega) _)
    (by omega) _) (by omega) _

@[simp] theorem Memory.writeColumn_gen (m : Memory) (i : Nat) (c : Column) : (m.writeColumn i c).gen = m.gen := rfl

/-- What a window word's write does to every byte of a buffer (R51). -/
theorem Memory.read_writeColumn (m : Memory) (i j : Nat) (c : Column) :
    (m.writeColumn i c).read j =
      if j = i then c.b0 else if j = i + 1 then c.b1 else if j = i + 2 then c.b2 else if j = i + 3 then c.b3
      else m.read j := by
  simp only [Memory.writeColumn, Memory.read_write]
  split_ifs <;> first | rfl | omega

/-- A window word reads back what was written to it (R51). -/
theorem Memory.column_writeColumn_same (m : Memory) (i : Nat) (c : Column) : (m.writeColumn i c).column i = c := by
  simp [Memory.column, Memory.read_writeColumn]

theorem Memory.filled_wf (g : Nat) (S : Bytes) : (Memory.filled g S).wf := by
  have h : ((cellsFrom 0 S).map Prod.fst).Pairwise (· < ·) := by
    rw [map_fst_cellsFrom]
    exact List.pairwise_lt_range'
  exact List.pairwise_map.1 h

theorem Memory.filled_within {S : Bytes} {n : Nat} (h : S.length ≤ n) (g : Nat) : (Memory.filled g S).within n := by
  intro c hc
  have := (mem_cellsFrom hc).2
  omega

/-- A filled buffer lists exactly the bytes of the string (R33). -/
theorem Memory.filled_indexes (g : Nat) (S : Bytes) : (Memory.filled g S).cells.map Prod.fst = List.range S.length := by
  simp [Memory.filled, map_fst_cellsFrom, List.range_eq_range']

/-- Every byte of a filled buffer: the string's, then the free bytes of its draw (R148). -/
theorem Memory.read_filled (g : Nat) (S : Bytes) (i : Nat) :
    (Memory.filled g S).read i = (S[i]?).getD (Config.freeByte g i) := by
  simp only [Memory.read, Memory.filled, findCell_cellsFrom, Memory.unlisted]
  cases S[i]? <;> simp

@[simp] theorem Memory.length_slice (m : Memory) (n : Nat) : (m.slice n).length = n := by simp [Memory.slice]

theorem Memory.getElem_slice (m : Memory) {n i : Nat} (h : i < (m.slice n).length) : (m.slice n)[i] = m.read i := by
  simp [Memory.slice]

/-- A filled buffer gives the string back. -/
theorem Memory.slice_filled (g : Nat) (S : Bytes) : (Memory.filled g S).slice S.length = S := by
  apply List.ext_getElem (by simp)
  intro i h1 h2
  simp [Memory.getElem_slice, Memory.read_filled, h2]

/-- The canonical form of the buffers at reset. -/
theorem reset_buffers_wf : State.reset.ibuf.wf ∧ State.reset.obuf.wf := by decide

end Sys2Proof.Machine
end

