-- ==== Sys2Proof/Laws/Ops.lean ====
section
/-! SUPPORT. Sys2Proof/Laws/Ops.lean: for each shared operation, what it can do, said once. -/
namespace Sys2Proof.Machine

/-- A command that uses RK answers its effect where a key is loaded, else INVALID_KEY; it always answers a next state. -/
theorem withKey_cases {s use t : State} (h : withKey s use = .next t) :
    (s.keyValid = true ∧ t = use) ∨ (s.keyValid = false ∧ t = s.raiseError .invalidKey) := by
  unfold withKey at h
  split at h <;> cases h
  · exact .inl ⟨‹_›, rfl⟩
  · rename_i hk
    exact .inr ⟨by simpa using hk, rfl⟩

theorem withKey_loaded {s : State} (h : s.keyValid = true) (use : State) : withKey s use = .next use := by
  simp [withKey, h]

theorem withKey_missing {s : State} (h : s.keyValid = false) (use : State) :
    withKey s use = .next (s.raiseError .invalidKey) := by
  simp [withKey, h]

/-- The unpadder answers bytes exactly where the last byte is 1 to 16 (R115). -/
theorem unpadBytes_ok_iff (Q R : Bytes) (lead trail : Bool) :
    unpadBytes Q lead trail = .ok R ↔
      (1 ≤ (Q.getLastD 0#8).toNat ∧ (Q.getLastD 0#8).toNat ≤ 16) ∧
        R = trim (Q.take (Q.length - (Q.getLastD 0#8).toNat)) lead trail := by
  simp only [unpadBytes]
  split
  · simp only [reduceCtorEq, false_iff, not_and]
    intro h
    omega
  · constructor
    · intro h
      cases h
      exact ⟨by omega, rfl⟩
    · intro h
      rw [h.2]

/-- The unpadder's only error is DATA_SIZE, where the last byte is 0 or above 16 (R115). -/
theorem unpadBytes_error_iff (Q : Bytes) (e : ErrCode) (lead trail : Bool) :
    unpadBytes Q lead trail = .error e ↔
      ((Q.getLastD 0#8).toNat < 1 ∨ 16 < (Q.getLastD 0#8).toNat) ∧ e = .dataSize := by
  simp only [unpadBytes]
  split
  · constructor
    · intro h
      cases h
      exact ⟨‹_›, rfl⟩
    · intro h
      rw [h.2]
  · simp only [reduceCtorEq, false_iff, not_and]
    intro h
    omega

/-- The addresses that target an instance, and the offset each selects (R44). -/
theorem windowOffset_eq_some_iff (base addr : Nat) (off : BitVec 14) :
    windowOffset base addr = some off ↔ addr = base + off.toNat := by
  have hlt := off.isLt
  unfold windowOffset windowBytes
  split
  · rename_i h
    constructor
    · intro he
      cases he
      simp only [BitVec.toNat_ofNat]
      omega
    · intro he
      subst he
      simp
  · simp only [reduceCtorEq, false_iff]
    omega

/-- Where the offset `o` of a slot can lie, in an instance with `n` bytes of buffer (R41, R51). -/
def Slot.liesAt (sl : Slot) (n o : Nat) : Prop :=
  match sl with
  | .id => o = 0x000
  | .cap => o = 0x004
  | .ctrl => o = 0x008
  | .status => o = 0x00C
  | .cmd => o = 0x010
  | .msgLen => o = 0x014
  | .outLen => o = 0x018
  | .keyin _ => 0x020 ≤ o ∧ o < 0x030
  | .iv _ => 0x030 ≤ o ∧ o < 0x040
  | .chain _ => 0x040 ≤ o ∧ o < 0x050
  | .din _ => 0x050 ≤ o ∧ o < 0x060
  | .dout _ => 0x060 ≤ o ∧ o < 0x070
  | .ibuf i => o = 0x1000 + i ∧ i + 4 ≤ n ∧ o < 0x2000
  | .obuf i => o = 0x2000 + i ∧ i + 4 ≤ n ∧ o < 0x3000
  | .reserved => True

theorem Slot.liesAt_ite {c : Prop} [Decidable c] {a b : Slot} {n o : Nat} (ha : c → a.liesAt n o) (hb : ¬ c → b.liesAt n o) :
    (if c then a else b).liesAt n o := by
  by_cases hc : c
  · rw [if_pos hc]
    exact ha hc
  · rw [if_neg hc]
    exact hb hc

theorem windowSlot_liesAt {n i o : Nat} {inside : Slot} (h : i + 4 ≤ n → inside.liesAt n o) :
    (windowSlot n i inside).liesAt n o := Slot.liesAt_ite h (fun _ => trivial)

/-- An offset selects a slot only where that slot lies (R41, R51). -/
theorem selectSlot_liesAt (n : Nat) (off : BitVec 14) : (selectSlot n off).liesAt n off.toNat := by
  unfold selectSlot
  refine Slot.liesAt_ite ?_ fun _ => Slot.liesAt_ite ?_ fun _ => Slot.liesAt_ite ?_ fun _ => Slot.liesAt_ite ?_ fun _ =>
    Slot.liesAt_ite ?_ fun _ => Slot.liesAt_ite ?_ fun _ => Slot.liesAt_ite ?_ fun _ => Slot.liesAt_ite ?_ fun _ =>
    Slot.liesAt_ite ?_ fun _ => Slot.liesAt_ite ?_ fun _ => Slot.liesAt_ite ?_ fun _ => Slot.liesAt_ite ?_ fun _ =>
    Slot.liesAt_ite ?_ fun _ => Slot.liesAt_ite ?_ fun _ => Slot.liesAt_ite (fun _ => windowSlot_liesAt ?_) fun _ =>
    Slot.liesAt_ite (fun _ => windowSlot_liesAt ?_) ?_
  all_goals
    intro _
    simp only [Slot.liesAt, offId, offCap, offCtrl, offStatus, offCmd, offMsgLen, offOutLen, offKeyin, offIv, offChain,
      offDin, offDout, offIbuf, offObuf, offTop] at * <;>
    omega

/-- Everything a bus read can do (R72): a misaligned one, an unspecified one, an ordinary one. -/
theorem busRead_cases (off : BitVec 14) (s : State) :
    (off.toNat % 4 ≠ 0 ∧ busRead off s = (.error, 0#32, s)) ∨
    (off.toNat % 4 = 0 ∧ s.busy = true ∧ (selectSlot s.bufBytes off).volatile = true ∧
      busRead off s = (.okay, Config.freeWord s.draws, { s with draws := s.draws + 1 })) ∨
    (off.toNat % 4 = 0 ∧ (s.busy && (selectSlot s.bufBytes off).volatile) = false ∧
      busRead off s = (.okay, slotValue s (selectSlot s.bufBytes off), s)) := by
  unfold busRead misaligned
  by_cases h : off.toNat % 4 = 0
  · right
    cases hb : s.busy && (selectSlot s.bufBytes off).volatile
    · exact .inr ⟨h, rfl, by simp [h, hb]⟩
    · have := Bool.and_eq_true_iff.1 hb
      exact .inl ⟨h, this.1, this.2, by simp [h, hb]⟩
  · exact .inl ⟨h, by simp [h]⟩

/-- Everything a bus write can do (R73): a misaligned one, one to STATUS, a dropped one, one that is stored. -/
theorem busWrite_cases (off : BitVec 14) (v : Word) (s : State) :
    (off.toNat % 4 ≠ 0 ∧ busWrite off v s = (.error, s)) ∨
    (off.toNat = offStatus ∧ busWrite off v s = (.okay, s.writeStatus v)) ∨
    (off.toNat % 4 = 0 ∧ off.toNat ≠ offStatus ∧ s.busy = true ∧ busWrite off v s = (.okay, { s with ovr := true })) ∨
    (off.toNat % 4 = 0 ∧ off.toNat ≠ offStatus ∧ s.busy = false ∧
      busWrite off v s = (.okay, writeSlot s (selectSlot s.bufBytes off) v)) := by
  unfold busWrite misaligned
  by_cases h : off.toNat % 4 = 0
  · by_cases hs : off.toNat = offStatus
    · exact .inr (.inl ⟨hs, by simp [hs, offStatus]⟩)
    · cases hb : s.busy
      · exact .inr (.inr (.inr ⟨h, hs, rfl, by simp [h, hs]⟩))
      · exact .inr (.inr (.inl ⟨h, hs, rfl, by simp [h, hs]⟩))
  · exact .inl ⟨h, by simp [h]⟩

/-- Everything a transaction can do: it is not ENCDEC's, it runs, or it is refused during reset (R44, R142). -/
theorem hostTransaction_cases (addr : Nat) (run : BitVec 14 → State) (s : State) :
    (windowOffset s.base addr = none ∧ hostTransaction addr run s = .next { s with reply := none }) ∨
    (∃ off, windowOffset s.base addr = some off ∧ s.rstN = true ∧ hostTransaction addr run s = .next (run off)) ∨
    (∃ off, windowOffset s.base addr = some off ∧ s.rstN = false ∧
      hostTransaction addr run s = .refused .busDuringReset) := by
  unfold hostTransaction
  cases h : windowOffset s.base addr with
  | none => exact .inl ⟨rfl, rfl⟩
  | some off =>
    cases hr : s.rstN
    · exact .inr (.inr ⟨off, rfl, rfl, rfl⟩)
    · exact .inr (.inl ⟨off, rfl, rfl, rfl⟩)

/-- Everything the engine's turn can do (R71, R75, R141, R142). -/
theorem engineTurn_cases (s : State) :
    (s.rstN = false ∧ engineTurn s = .next s.resetValues) ∨
    (s.rstN = true ∧ s.pend = none ∧ engineTurn s = .next s) ∨
    (∃ w, s.rstN = true ∧ s.pend = some w ∧ engineTurn s = completeWord w s) := by
  unfold engineTurn
  cases hr : s.rstN
  · exact .inl ⟨rfl, rfl⟩
  · cases hp : s.pend with
    | none => exact .inr (.inl ⟨rfl, rfl, rfl⟩)
    | some w => exact .inr (.inr ⟨w, rfl, rfl, rfl⟩)

/-- A command word completes as its command, or as an illegal word (R75, R128). -/
theorem completeWord_cases (w : Word) (s : State) :
    (∃ i, decode w = .ok i ∧ completeWord w s = exec i s) ∨
    (∃ e, decode w = .error e ∧ completeWord w s = .next (s.raiseError .illegalCmd)) := by
  unfold completeWord
  cases h : decode w with
  | ok i => exact .inl ⟨i, rfl, rfl⟩
  | error e => exact .inr ⟨e, rfl, rfl⟩

/-- A step is the next event of the schedule, or the engine's turn where the schedule is used up. -/
theorem step_scheduled (s : State) (e : HostEvent) (rest : List HostEvent) (h : s.host = e :: rest) :
    step s = hostEvent e { s with host := rest } := by
  simp [step, nextTurn, h]

theorem step_unscheduled (s : State) (h : s.host = []) : step s = engineTurn s := by
  simp [step, nextTurn, h]

end Sys2Proof.Machine
end

