-- ==== Sys2Proof/Laws/PerInstr.lean ====
section
/-! SUPPORT. Sys2Proof/Laws/PerInstr.lean: the family EncodedFields, what each field of a well-formed command's word holds (R61, R62, R64). -/
namespace Sys2Proof.Laws.EncodedFields

/-- The value of a command's KLEN field: 0 for every opcode but KEYLOAD's (R61). -/
def operand (i : Instr) : Nat :=
  match i with
  | .keyload klen => klen
  | .nop => 0
  | .keyclr => 0
  | .ecbEnc => 0
  | .ecbDec => 0
  | .chainInit => 0
  | .cbcEncBlk => 0
  | .cbcDecBlk => 0
  | .pad => 0
  | .unpad => 0
  | .encMsg => 0
  | .decMsg => 0

/-- The word of a well-formed command has its opcode in OP and its operand in KLEN, and its reserved fields are 0 (R61). -/
def Statement (i : Instr) : Prop :=
  i.wellFormed = true →
    opField (encode i) = opcode i ∧ klenField (encode i) = operand i ∧ rsv0Field (encode i) = 0 ∧ rsv1Field (encode i) = 0

theorem nop : Statement .nop := fun _ => by decide

theorem keyload (klen : Nat) : Statement (.keyload klen) := by
  intro h
  have hk : klen < 32 := by
    have : klen ≤ 31 := by simpa [Instr.wellFormed] using h
    omega
  have all : ∀ k : Fin 32, opField (encode (.keyload k)) = 1 ∧ klenField (encode (.keyload k)) = k ∧
      rsv0Field (encode (.keyload k)) = 0 ∧ rsv1Field (encode (.keyload k)) = 0 := by decide
  exact all ⟨klen, hk⟩

theorem keyclr : Statement .keyclr := fun _ => by decide

theorem ecbEnc : Statement .ecbEnc := fun _ => by decide

theorem ecbDec : Statement .ecbDec := fun _ => by decide

theorem chainInit : Statement .chainInit := fun _ => by decide

theorem cbcEncBlk : Statement .cbcEncBlk := fun _ => by decide

theorem cbcDecBlk : Statement .cbcDecBlk := fun _ => by decide

theorem pad : Statement .pad := fun _ => by decide

theorem unpad : Statement .unpad := fun _ => by decide

theorem encMsg : Statement .encMsg := fun _ => by decide

theorem decMsg : Statement .decMsg := fun _ => by decide

end Sys2Proof.Laws.EncodedFields
end

