-- ==== Sys2Proof/Tests/Slice0.lean ====
section
/-! SUPPORT. Sys2Proof/Tests/Slice0.lean: tests from the spec's vectors (95_test_vectors.md), and witnesses of the statements' hypotheses. -/
namespace Sys2Proof.Tests
open Sys2Proof Sys2Proof.Machine

/-! ## Helpers -/

/-- The key K14 of 95_test_vectors.md, `Derive("myPassKey12345")`. -/
def k14 : Block := hexBlock 0x6d79506173734b657931323334350000#128

/-- The key of SP 800-38A. -/
def kSp : Block := hexBlock 0x2b7e151628aed2a6abf7158809cf4f3c#128

/-- The reset state with a key loaded. -/
def loaded (k : Block) : State := { State.reset with key := k, rk := keyExpansion k, keyValid := true }

/-- A state with a message in IBUF and its length in MSG_LEN. -/
def withMessage (s : State) (S : Bytes) : State :=
  { s with ibuf := Memory.filled 0 S, msgLen := BitVec.ofNat 16 S.length }

/-- The bytes of "hello world". -/
def hello : Bytes := [0x68#8, 0x65#8, 0x6c#8, 0x6c#8, 0x6f#8, 0x20#8, 0x77#8, 0x6f#8, 0x72#8, 0x6c#8, 0x64#8]

/-- A question about the next state of an outcome; a fault or a refusal answers no. -/
def after (o : Host.Outcome State Fault Refusal) (q : State → Bool) : Bool :=
  match o with
  | .next t => q t
  | .fault _ => false
  | .refused _ => false

/-- The message a message command left: OBUF[0..OUT_LEN). -/
def result (t : State) : Bytes := t.obuf.slice t.outLen.toNat

/-! ## Well-formedness: KLEN is the one check (R62, R69) -/

theorem test_wellFormed_klen_31 : (Instr.keyload 31).wellFormed = true := by decide
theorem test_wellFormed_refuses_klen_32 : (Instr.keyload 32).wellFormed = false := by decide

/-! ## Decoding: every word of R64, and the illegal words of 95_test_vectors.md 3.9 -/

theorem test_decode_nop : decode 0b00000000000000000000000000000000#32 = .ok .nop := by decide
theorem test_decode_keyload_14 : decode 0b00000000000000000000111000000001#32 = .ok (.keyload 14) := by decide
theorem test_decode_keyload_17 : decode 0b00000000000000000001000100000001#32 = .ok (.keyload 17) := by decide
theorem test_decode_keyclr : decode 0b00000000000000000000000000000010#32 = .ok .keyclr := by decide
theorem test_decode_ecbEnc : decode 0b00000000000000000000000000000011#32 = .ok .ecbEnc := by decide
theorem test_decode_ecbDec : decode 0b00000000000000000000000000000100#32 = .ok .ecbDec := by decide
theorem test_decode_chainInit : decode 0b00000000000000000000000000000101#32 = .ok .chainInit := by decide
theorem test_decode_cbcEncBlk : decode 0b00000000000000000000000000000110#32 = .ok .cbcEncBlk := by decide
theorem test_decode_cbcDecBlk : decode 0b00000000000000000000000000000111#32 = .ok .cbcDecBlk := by decide
theorem test_decode_pad : decode 0b00000000000000000000000000001000#32 = .ok .pad := by decide
theorem test_decode_unpad : decode 0b00000000000000000000000000001001#32 = .ok .unpad := by decide
theorem test_decode_encMsg : decode 0b00000000000000000000000000001010#32 = .ok .encMsg := by decide
theorem test_decode_decMsg : decode 0b00000000000000000000000000001011#32 = .ok .decMsg := by decide
theorem test_decode_opcode_C : decode 0x0000000C#32 = .error .badOpcode := by decide
theorem test_decode_rsv0 : decode 0x00000010#32 = .error .reservedBits := by decide
theorem test_decode_klen_with_nop : decode 0x00000100#32 = .error .strayKlen := by decide
theorem test_decode_klen_with_encMsg : decode 0x00000E0A#32 = .error .strayKlen := by decide
theorem test_decode_klen_with_keyclr : decode 0x00001002#32 = .error .strayKlen := by decide
theorem test_decode_rsv1_bit_13 : decode 0x00002001#32 = .error .reservedBits := by decide
theorem test_decode_rsv1_bit_31 : decode 0x80000000#32 = .error .reservedBits := by decide
theorem test_encode_keyload_14 : encode (.keyload 14) = 0x00000E01#32 := by decide
theorem test_decodeTableWord : decodeTableWord 32 0x1001 = some (.keyload 16) := by decide

/-! ## The AES core (95_test_vectors.md V11, V13, 3.1) -/

theorem test_xtime : xtime 0x57#8 = 0xAE#8 ∧ xtime 0x80#8 = 0x1B#8 ∧ xtime 0xFF#8 = 0xE5#8 := by decide
theorem test_gmul : gmul 0x02#8 0x87#8 = 0x15#8 ∧ gmul 0x53#8 0xCA#8 = 0x01#8 := by decide
theorem test_sbox : sbox 0x53#8 = 0xED#8 ∧ sbox 0xFF#8 = 0x16#8 ∧ invSbox 0x63#8 = 0x00#8 := by decide
theorem test_mixColumn : mixColumn ⟨0xdb#8, 0x13#8, 0x53#8, 0x45#8⟩ = ⟨0x8e#8, 0x4d#8, 0xa1#8, 0xbc#8⟩ := by decide +kernel
theorem test_invMixColumn : invMixColumn ⟨0x9f#8, 0xdc#8, 0x58#8, 0x9d#8⟩ = ⟨0xf2#8, 0x0a#8, 0x22#8, 0x5c#8⟩ := by
  decide +kernel
theorem test_shiftRows : shiftRows iv = hexBlock 0x00050a0f04090e03080d02070c01060b#128 := by decide
theorem test_invShiftRows : invShiftRows iv = hexBlock 0x000d0a0704010e0b0805020f0c090603#128 := by decide
theorem test_subBytes : subBytes iv = hexBlock 0x637c777bf26b6fc53001672bfed7ab76#128 := by decide +kernel
theorem test_keyExpansion_last : (keyExpansion kSp).k10 = hexBlock 0xd014f9a8c9ee2589e13f0cc8b6630ca6#128 := by decide +kernel
theorem test_encRound_1 :
    encRound (hexBlock 0x00102030405060708090a0b0c0d0e0f0#128) (keyExpansion iv).k1
      = hexBlock 0x89d810e8855ace682d1843d8cb128fe4#128 := by decide +kernel

/-! ## The commands, one step each (95_test_vectors.md section 3) -/

theorem test_nop_status : after (step (State.reset.withFetchWord 32 0x0)) (fun t => t.statusWord == 0x2#32) = true := by
  decide
theorem test_illegal_status : after (step (State.reset.withFetchWord 32 0xC)) (fun t => t.statusWord == 0x902#32) = true := by
  decide
/-- Bytes of KEYIN at index ≥ KLEN are ignored (3.2). -/
theorem test_keyload_1 :
    after (exec (.keyload 1) { State.reset with keyin := hexBlock 0xffffffffffffffffffffffffffffffff#128 })
      (fun t => t.key == hexBlock 0xff000000000000000000000000000000#128 && t.keyValid) = true := by decide +kernel
theorem test_keyload_31_keeps_key :
    after (exec (.keyload 31) (loaded k14)) (fun t => t.err == .keySize && t.key == k14 && t.keyValid) = true := by
  decide +kernel
theorem test_keyclr : after (exec .keyclr { loaded k14 with keyin := k14 })
    (fun t => t.statusWord == 0x2#32 && t.key == zeroBlock && t.keyin == zeroBlock) = true := by decide +kernel
theorem test_ecbEnc : after (exec .ecbEnc (loaded k14))
    (fun t => t.dout == hexBlock 0x1eacde3890b65a6cfc7e6a0d96962ddc#128 && t.chain == iv) = true := by decide +kernel
theorem test_ecbEnc_no_key : after (step (State.reset.withFetchWord 32 0x3)) (fun t => t.statusWord == 0x402#32) = true := by
  decide
theorem test_ecbDec : after (exec .ecbDec (loaded k14))
    (fun t => t.dout == hexBlock 0x0394ada9f0bd43f5bc07e30f21c263ca#128) = true := by decide +kernel
theorem test_chainInit : after (exec .chainInit { State.reset with chain := k14 }) (fun t => t.chain == iv) = true := by decide
theorem test_cbcEncBlk :
    after (exec .cbcEncBlk { loaded kSp with chain := hexBlock 0x7649abac8119b246cee98e9b12e9197d#128,
                                             din := hexBlock 0xae2d8a571e03ac9c9eb76fac45af8e51#128 })
      (fun t => t.dout == hexBlock 0x5086cb9b507219ee95db113a917678b2#128 && t.chain == t.dout) = true := by decide +kernel
theorem test_cbcDecBlk :
    after (exec .cbcDecBlk { loaded kSp with din := hexBlock 0x7649abac8119b246cee98e9b12e9197d#128 })
      (fun t => t.dout == hexBlock 0x6bc1bee22e409f96e93d7e117393172a#128 && t.chain == t.din) = true := by decide +kernel
theorem test_pad_hello : after (exec .pad (withMessage State.reset hello))
    (fun t => result t == blockBytesOf (hexBlock 0x68656c6c6f20776f726c640505050505#128)) = true := by decide +kernel
theorem test_pad_16 : after (exec .pad (withMessage State.reset (repByte 16 0x41#8)))
    (fun t => result t == repByte 16 0x41#8 ++ repByte 16 0x10#8) = true := by decide +kernel
theorem test_unpad_trims : after (exec .unpad
      (withMessage State.reset (blockBytesOf (hexBlock 0x616200000c0c0c0c0c0c0c0c0c0c0c0c#128))))
    (fun t => result t == [0x61#8, 0x62#8]) = true := by decide +kernel
theorem test_unpad_11_is_bad : after (exec .unpad
      (withMessage State.reset (blockBytesOf (hexBlock 0x00000000000000000000000000000011#128))))
    (fun t => t.err == .dataSize && t.outLen == 0#16) = true := by decide +kernel
theorem test_encMsg_17 : after (exec .encMsg (withMessage (loaded k14) (repByte 17 0x41#8)))
    (fun t => result t == blockBytesOf (hexBlock 0xd9176f4335974dfe79ad9f9c809b10f4#128) ++
        blockBytesOf (hexBlock 0x9172acf7256b498f0c26aa81022bcd46#128)
      && t.chain == hexBlock 0x9172acf7256b498f0c26aa81022bcd46#128) = true := by decide +kernel
/-- The length check comes before the key check (3.7). -/
theorem test_encMsg_length_first : after (exec .encMsg { State.reset with msgLen := 4096#16 })
    (fun t => t.err == .bufferSize) = true := by decide
theorem test_decMsg_hello : after (exec .decMsg
      (withMessage (loaded k14) (blockBytesOf (hexBlock 0x59281b0ced9ccf2a7de950c26e7ad2bd#128))))
    (fun t => result t == hello && t.chain == hexBlock 0x59281b0ced9ccf2a7de950c26e7ad2bd#128) = true := by decide +kernel
theorem test_decMsg_zeros_is_bad : after (exec .decMsg
      (withMessage (loaded k14) (blockBytesOf (hexBlock 0xb504557338f841a000cdae9a28c14477#128))))
    (fun t => t.err == .dataSize && t.chain == iv) = true := by decide +kernel

/-! ## The bus (95_test_vectors.md 3.10) -/

theorem test_rd_cap : busRead 0x004#14 State.reset = (.okay, 0x00001000#32, State.reset) := by decide
theorem test_rd_misaligned : busRead 0x002#14 State.reset = (.error, 0#32, State.reset) := by decide
theorem test_wr_misaligned_cmd : busWrite 0x011#14 0#32 State.reset = (.error, State.reset) := by decide
theorem test_wr_ctrl_reserved_bits : (busRead 0x008#14 (busWrite 0x008#14 0xFFFFFFFF#32 State.reset).2).2.1 = 0x7#32 := by decide
theorem test_wr_msgLen : (busRead 0x014#14 (busWrite 0x014#14 0x12345678#32 State.reset).2).2.1 = 0x5678#32 := by decide
theorem test_wr_iv_ignored : (busRead 0x030#14 (busWrite 0x030#14 0xFFFFFFFF#32 State.reset).2).2.1 = 0x03020100#32 := by decide
theorem test_wr_ibuf : (busRead 0x1FFC#14 (busWrite 0x1FFC#14 0x6C6C6568#32 State.reset).2).2.1 = 0x6C6C6568#32 := by decide
theorem test_ibuf_past_end : busRead 0x1010#14 { State.reset with bufBytes := 16 } =
    (.okay, 0#32, { State.reset with bufBytes := 16 }) := by decide
theorem test_busy_write_dropped :
    (busWrite 0x050#14 0x1#32 (State.reset.launch 0#32)).2.statusWord = 0x9#32 ∧
    (busWrite 0x050#14 0x1#32 (State.reset.launch 0#32)).2.din = zeroBlock := by decide
theorem test_step_write_cmd : after (step { State.reset with host := [.write 0x010 0xA#32] })
    (fun t => t.pend == some 0xA#32 && t.statusWord == 0x1#32 && t.reply == some (.write .okay)) = true := by decide
theorem test_step_bus_during_reset :
    (match step { State.reset with rstN := false, host := [.read 0x000] } with
      | .refused r => decide (r = .busDuringReset)
      | _ => false) = true := by decide
theorem test_irq : (State.reset.writeCtrl 7#32).complete.irq = true ∧
    ((State.reset.writeCtrl 7#32).complete.writeStatus 2#32).irq = false := by decide

/-! ## Host programs (30_encoding.md R68-R70) -/

theorem test_asm_keyload : parseLine "exec KEYLOAD 14 ; comment" = some (.exec 0x00000E01#32) := by decide +kernel
theorem test_asm_keyload_32_refused : parseLine "exec KEYLOAD 32" = none := by decide +kernel
/-- The raw word of program P4 (95_test_vectors.md section 4). -/
theorem test_asm_word : parseLine "exec .word 0x0000000C" = some (.exec 0x0000000C#32) := by decide +kernel
theorem test_asm_window : parseLine "wr IBUF+0x10, 0x2ACF9CED" = some (.wr 0x1010 0x2ACF9CED#32) := by decide +kernel
theorem test_asm_ldmsg_words :
    (expand 0 (.ldmsg hello)).map AsmOp.event =
      [.write 0x1000 0x6C6C6568#32, .write 0x1004 0x6F77206F#32, .write 0x1008 0x00646C72#32, .write 0x014 11#32] := by
  decide +kernel

/-! ## Witnesses: for each statement with hypotheses, a state and operands that meet them -/

/-- The invariant is met by a state with a key loaded. -/
theorem witness_Inv : Inv (loaded k14) where
  bufBytes_legal := by decide
  base_legal := by decide
  keys_expanded := fun _ => rfl
  keys_erased := fun h => nomatch h
  outLen_le := by decide
  err_raised := rfl
  busy_clear := fun h => nomatch h
  ibuf_wf := by decide
  ibuf_within := by decide
  obuf_determined := by decide
  reset_held := fun h => nomatch h

/-- The invariant is met by a state with a key loaded, a message that fits IBUF, and any CHAIN. -/
theorem witness_Inv_message {S : Bytes} (h : S.length ≤ 4096) (c : Block) :
    Inv { withMessage (loaded k14) S with chain := c } where
  bufBytes_legal := show Config.legalBufBytes 4096 by decide
  base_legal := rfl
  keys_expanded := fun _ => rfl
  keys_erased := fun h => nomatch h
  outLen_le := Nat.zero_le _
  err_raised := rfl
  busy_clear := fun h => nomatch h
  ibuf_wf := Memory.filled_wf 0 S
  ibuf_within := Memory.filled_within h 0
  obuf_determined := rfl
  reset_held := fun h => nomatch h

theorem witness_DecodeFollowsOpcodeMap : decode 0x1F01#32 = .ok (.keyload 31) ∧
    (∃ r ∈ opcodeRows, 0x1F01#32 &&& r.mask = r.value) := by decide
theorem witness_IllegalWordsAreReported : decode 0xF#32 = .error .badOpcode ∧ State.reset.busy = false := by decide
/-- The operands 31 and 32, one that is no number, a mnemonic without an operand, and the largest raw word. -/
theorem witness_AssemblerFollowsOpcodeMap : 31 ≤ 31 ∧ 31 < 32 ∧ decNumber ['3', 'x'] = none ∧
    (∃ r ∈ opcodeRows, r.mnemonic ≠ "KEYLOAD") ∧ 0 < 2 ^ 32 ∧ 0xFFFFFFFF < 2 ^ 32 := by decide +kernel
theorem witness_StepRunsDecodedCommand :
    let s := { State.reset with pend := some 0xA#32 }
    s.rstN = true ∧ s.pend = some 0xA#32 ∧ decode 0xA#32 = .ok .encMsg ∧ s.host = [] := by decide
theorem witness_StepRunsDecodedCommand_scheduled :
    let s := { State.reset with pend := some 0xA#32, host := [.engine, .read 0] }
    s.rstN = true ∧ decode 0xA#32 = .ok .encMsg ∧ s.host = .engine :: [.read 0] := by decide
theorem witness_StepRunsBusTransaction_inside :
    let s := { State.reset with host := [.read 0x3FFC] }
    0x3FFC = s.base + (0x3FFC#14).toNat ∧ s.rstN = true ∧ s.host = .read 0x3FFC :: [] := by decide
theorem witness_StepRunsBusTransaction_outside :
    let s := { State.reset with host := [.write 0x4000 1#32] }
    s.base + 0x4000 ≤ 0x4000 ∧ s.host = .write 0x4000 1#32 :: [] := by decide
theorem witness_StepRunsBusTransaction_during_reset :
    let s := { State.reset with rstN := false, host := [.read 0x3FFF] }
    s.base ≤ 0x3FFF ∧ 0x3FFF < s.base + 0x4000 ∧ s.rstN = false ∧ s.host = .read 0x3FFF :: [] := by decide
theorem witness_CompletionStep : decode 0x2#32 = .ok .keyclr ∧ decode 0xC#32 = .error .badOpcode := by decide
theorem witness_IllegalCommandCompletes :
    let s := { State.reset with pend := some 0xC#32 }
    s.rstN = true ∧ s.host = [] ∧ s.pend = some 0xC#32 ∧ decode 0xC#32 = .error .badOpcode := by decide
theorem witness_ErrorsArePrecise : after (exec .ecbEnc State.reset) (fun t => t.err != .ok) = true := by decide
/-- Each condition of the order is met at a boundary: KLEN 17, MSG_LEN 4096, no key, a pad byte of 17, and none of them. -/
theorem witness_FirstErrorIsReported :
    16 < keyLength (.keyload 17) ∧ badLength .encMsg { State.reset with msgLen := 4096#16 } ∧
    ¬ badLength .encMsg { State.reset with msgLen := 4095#16 } ∧ usesKey .encMsg = true ∧ State.reset.keyValid = false ∧
    padByte .unpad (withMessage State.reset (repByte 16 17#8)) = some 17 ∧
    padByte .unpad (withMessage State.reset (repByte 16 16#8)) = some 16 ∧
    ¬ badLength .unpad (withMessage State.reset (repByte 16 16#8)) ∧ usesKey .unpad = false := by
  refine ⟨by decide, ?_, ?_, by decide, by decide, by decide, by decide, ?_, by decide⟩ <;> simp only [badLength] <;> decide
theorem witness_KeyloadCommand : 16 ≤ 16 ∧ 16 < 17 := by decide
theorem witness_KeyclrCommand : State.reset.keyValid = false ∧ usesKey .decMsg = true ∧
    ¬ badLength .decMsg { State.reset with msgLen := 4096#16 } := by
  refine ⟨rfl, by decide, ?_⟩
  simp only [badLength]
  decide
/-- The completion of KEYLOAD 16 is a step that sets KEY_VALID. -/
theorem witness_KeyclrCommand_keyload : State.reset.keyValid = false ∧
    after (step (State.reset.withFetchWord 32 0x1001)) (fun u => u.keyValid) = true := by decide +kernel
theorem witness_NopCompletes : 0x80000000#32 &&& 0xF#32 = 0#32 ∧ (0x80000000#32 : Word) ≠ 0#32 := by decide
/-- A message of one full block and one byte, and one of no full block and no byte. -/
theorem witness_LongMessageProcedure : Inv (loaded k14) ∧ (loaded k14).keyValid = true ∧
    (Memory.filled 0 [0x41#8]).slice (17 % 16) = (repByte 17 0x41#8).drop 16 ∧
    (Memory.filled 0 []).slice (0 % 16) = ([] : Bytes).drop 0 := ⟨witness_Inv, rfl, by decide, by decide⟩
/-- A step that completes ENC.MSG and changes CHAIN, and one that writes IBUF. -/
theorem witness_OnlyNamedWritersChangeState :
    after (step ((withMessage (loaded k14) hello).withFetchWord 32 0xA)) (fun t => t.chain != iv && t.outLen == 16#16) = true ∧
    after (step { State.reset with host := [.write 0x1000 1#32] }) (fun t => t.ibuf != State.reset.ibuf) = true ∧
    State.reset.rstN = true := by decide +kernel
/-- A CMD write that changes PEND and DONE, a dropped write that sets OVR, and a STATUS write that clears DONE and OVR. -/
theorem witness_OnlyNamedWritersChangeState_status :
    after (step { State.reset with done := true, host := [.write 0x010 0#32] }) (fun t => t.pend == some 0#32 && !t.done) = true ∧
    after (step { State.reset with pend := some 0#32, host := [.write 0x3FFC 0#32] }) (fun t => t.ovr) = true ∧
    after (step { State.reset with done := true, ovr := true, host := [.write 0x00C 0xA#32] })
      (fun t => !t.done && !t.ovr) = true := by decide
theorem witness_SboxIsAffineOfInverse : gmul 0x53#8 0xCA#8 = 0x01#8 := by decide
theorem witness_FieldMultiplicationLaws : (0x53#8 : Byte) ≠ 0#8 := by decide
theorem witness_key_loaded : (loaded k14).keyValid = true ∧ State.reset.keyValid = false := by decide +kernel
theorem witness_CbcDecryptUndoesCbcEncrypt : (repByte 32 0x41#8).length % 16 = 0 := by decide
theorem witness_BlockStreamsMatchChaining : (loaded kSp).keyValid = true ∧ (repByte 64 0#8).length % 16 = 0 := by
  decide +kernel
theorem witness_TrimLaw : trim [0#8, 0x61#8, 0#8] true false = [0x61#8, 0#8] := by decide
theorem witness_PadCommand :
    let s := { State.reset with msgLen := 4095#16 }
    let b := { State.reset with msgLen := 4096#16 }
    s.bufBytes ≤ 4096 ∧ s.msgLen.toNat < s.bufBytes ∧ b.bufBytes ≤ 4096 ∧ b.bufBytes ≤ b.msgLen.toNat := by decide
/-- A whole block of padding, N = 16; and lengths 0, 15 and 4112, and pad bytes 0 and 17. -/
theorem witness_UnpadCommand :
    let s := withMessage State.reset (repByte 16 16#8)
    let z := withMessage State.reset (repByte 16 0#8)
    let g := withMessage State.reset (repByte 16 17#8)
    s.msgLen.toNat = 16 ∧ s.msgLen.toNat ≤ s.bufBytes ∧ (s.ibuf.read 15).toNat = 16 ∧
    State.reset.msgLen.toNat = 0 ∧ (15#16).toNat % 16 ≠ 0 ∧ State.reset.bufBytes < (4112#16).toNat ∧
    (z.ibuf.read 15).toNat < 1 ∧ 16 < (g.ibuf.read 15).toNat := by decide
theorem witness_EncMsgCommand :
    let s := { loaded k14 with msgLen := 4095#16 }
    let b := { loaded k14 with msgLen := 4096#16 }
    s.bufBytes ≤ 4096 ∧ s.msgLen.toNat < s.bufBytes ∧ s.keyValid = true ∧ b.bufBytes ≤ b.msgLen.toNat ∧
    State.reset.msgLen.toNat < State.reset.bufBytes ∧ State.reset.keyValid = false := by decide +kernel
/-- A ciphertext whose decryption ends in 0x05, and one that decrypts to zeros; and no key. -/
theorem witness_DecMsgCommand :
    let s := withMessage (loaded k14) (blockBytesOf (hexBlock 0x59281b0ced9ccf2a7de950c26e7ad2bd#128))
    let z := withMessage (loaded k14) (blockBytesOf (hexBlock 0xb504557338f841a000cdae9a28c14477#128))
    s.msgLen.toNat = 16 ∧ s.msgLen.toNat ≤ s.bufBytes ∧ s.keyValid = true ∧
    ((cbcDecrypt s.rk iv (s.ibuf.slice 16)).1.getLastD 0#8).toNat = 5 ∧
    ((cbcDecrypt z.rk iv (z.ibuf.slice 16)).1.getLastD 0#8).toNat = 0 ∧
    (withMessage State.reset (repByte 16 0#8)).keyValid = false := by decide +kernel
theorem witness_MessageLengthLaws :
    after (exec .encMsg (withMessage (loaded k14) hello)) (fun t => t.err == .ok) = true ∧
    after (exec .decMsg (withMessage (loaded k14) (blockBytesOf (hexBlock 0x59281b0ced9ccf2a7de950c26e7ad2bd#128))))
      (fun t => t.err == .ok) = true := by decide +kernel
/-- ENC.MSG of "hello world" completes without error, and the host's copy of its output meets the law's other hypotheses. -/
theorem witness_MessageRoundTrip : ∃ t, Inv (withMessage (loaded k14) hello) ∧
    exec .encMsg (withMessage (loaded k14) hello) = .next t ∧ t.err = .ok ∧
    let u := { t with ibuf := t.obuf, msgLen := t.outLen }
    u.bufBytes = (withMessage (loaded k14) hello).bufBytes ∧ u.key = t.key ∧ u.rk = t.rk ∧ u.keyValid = t.keyValid ∧
    u.msgLen = t.outLen ∧ ∀ i, i < t.outLen.toNat → u.ibuf.read i = t.obuf.read i :=
  ⟨_, witness_Inv_message (by decide) iv, rfl, rfl, rfl, rfl, rfl, rfl, rfl, fun _ _ => rfl⟩
/-- Two states that differ in CHAIN, DIN and DOUT and agree on the key and the message. -/
theorem witness_EncMsgIsDeterministic : ∃ a b t u, Inv a ∧ Inv b ∧ a.chain ≠ b.chain ∧
    a.key = b.key ∧ a.msgLen = b.msgLen ∧ (∀ i, i < a.msgLen.toNat → a.ibuf.read i = b.ibuf.read i) ∧
    exec .encMsg a = .next t ∧ exec .encMsg b = .next u ∧ t.err = .ok ∧ u.err = .ok := by
  exact ⟨withMessage (loaded k14) hello, { withMessage (loaded k14) hello with chain := zeroBlock }, _, _,
    witness_Inv_message (by decide) iv, witness_Inv_message (by decide) zeroBlock,
    by decide, rfl, rfl, fun _ _ => rfl, rfl, rfl, rfl, rfl⟩
/-- DEC.MSG of Scenario A's ciphertext completes without error, and the host's copy of its output meets the other hypotheses. -/
theorem witness_ReencryptionLaw :
    let s := withMessage (loaded k14) (blockBytesOf (hexBlock 0x59281b0ced9ccf2a7de950c26e7ad2bd#128))
    Inv s ∧ after (exec .decMsg s) (fun t => t.err == .ok &&
      (let u := { t with ibuf := t.obuf, msgLen := t.outLen }
       u.bufBytes == s.bufBytes && decide (u.rk = t.rk) && u.keyValid == t.keyValid && u.msgLen == t.outLen &&
         decide (u.ibuf = t.obuf))) = true :=
  ⟨witness_Inv_message (by decide) iv, by decide +kernel⟩
theorem witness_idle : State.reset.pend = none ∧ State.reset.bufBytes ≤ 4096 ∧ State.reset.busy = false := by decide
theorem witness_MisalignedChangesNothing : (0x3FFF#14).extractLsb' 0 2 ≠ 0#2 := by decide
/-- Each range of the statement has an aligned offset in it, at its ends. -/
theorem witness_ReservedReadsZeroIgnoresWrites :
    ∀ o ∈ [0x01C, 0x070, 0x0FFC, 0x3000, 0x3FFC, 0x1010, 0x1FFC, 0x2010, 0x2FFC, 0x000, 0x004, 0x018, 0x030, 0x04C, 0x060,
           0x06C, 0x010, 0x020, 0x02C], (BitVec.ofNat 14 o).toNat % 4 = 0 := by decide
theorem witness_busy : (State.reset.launch 0#32).busy = true ∧ (0x3FFC#14).toNat % 4 = 0 ∧ 0x3FFC#14 ≠ 0x00C#14 ∧
    (0x040#14).toNat % 4 = 0 ∧ (0x2FFC#14).toNat - 0x2000 + 4 ≤ (State.reset.launch 0#32).bufBytes := by decide
theorem witness_BusyWritesAreDropped_ovr : (busWrite 0x00C#14 0x8#32 { State.reset with ovr := true }).2.ovr = false := by decide
theorem witness_IbufWriteStoresFourBytes : 4 * 1023 + 4 ≤ State.reset.bufBytes := by decide
theorem witness_ResetInputResets :
    let s := { State.reset with key := k14, pend := some 0#32, host := [.resetAssert, .engine] }
    s.host = .resetAssert :: [.engine] := by decide +kernel
theorem witness_InvariantKeptByStep : ∃ t, Inv (loaded k14) ∧ step (loaded k14) = .next t := ⟨_, witness_Inv, rfl⟩
theorem witness_SafeScheduleNeverStops :
    Safe { State.reset with host := [.resetAssert, .read 0x4000, .engine, .resetRelease, .write 0x010 0#32] } = true := by decide
theorem witness_CommandInFlightCompletes :
    let s := { State.reset with pend := some 0xA#32, host := [.read 0x060, .write 0x010 1#32] }
    s.rstN = true ∧ s.busy = true ∧ ∀ e ∈ s.host, e.isTransaction = true := by decide
theorem witness_ResultsDoNotDependOnTiming :
    let s := { State.reset with pend := some 0x8#32 }
    let events : List HostEvent := [.read 0x2000, .write 0x014 3#32]
    s.rstN = true ∧ s.busy = true ∧ s.host = [] ∧ (∀ e ∈ events, e.isTransaction = true) ∧
    after (runSteps (events.length + 1) { s with host := events }) (fun t => t.err == .ok && t.ovr) = true ∧
    after (step s) (fun u => u.err == .ok && !u.ovr) = true := by decide +kernel

end Sys2Proof.Tests
end

section
namespace Sys2Proof.Machine

/-! ## Reads while no command is in flight -/

theorem busy_eq_false_iff {s : State} : s.busy = false ↔ s.pend = none := by simp [State.busy]

/-- An aligned read with nothing in flight answers the register's value and leaves the state as it is (R72). -/
theorem busRead_idle {s : State} (h : s.pend = none) {off : BitVec 14} (ha : off.toNat % 4 = 0) :
    busRead off s = (.okay, slotValue s (selectSlot s.bufBytes off), s) := by
  obtain ⟨hm, -⟩ | ⟨-, hb, -⟩ | ⟨-, -, he⟩ := busRead_cases off s
  · exact absurd ha hm
  · simp [busy_eq_false_iff.2 h] at hb
  · exact he

/-- CTRL's fields do not overlap: their sum is their bitwise or (R36). -/
theorem ctrlWord_eq_or (s : State) :
    s.ctrlWord = (if s.ie then 1#32 else 0#32) ||| (if s.trimTrail then 2#32 else 0#32) |||
      (if s.trimLead then 4#32 else 0#32) := by
  have fields : ∀ a b c : Bool, BitVec.ofNat 32 (bitNat a + 2 * bitNat b + 4 * bitNat c) =
      (if a then 1#32 else 0#32) ||| (if b then 2#32 else 0#32) ||| (if c then 4#32 else 0#32) := by decide
  exact fields _ _ _

/-- STATUS's fields do not overlap either; BUSY is 0 while nothing is in flight (R37). -/
theorem statusWord_idle {s : State} (h : s.pend = none) :
    s.statusWord = (if s.done then 2#32 else 0#32) ||| (if s.keyValid then 4#32 else 0#32) |||
      (if s.ovr then 8#32 else 0#32) ||| (s.err.code.setWidth 32 <<< 8) := by
  have fields : ∀ (a b c : Bool) (e : BitVec 4),
      BitVec.ofNat 32 (bitNat false + 2 * bitNat a + 4 * bitNat b + 8 * bitNat c + 256 * e.toNat) =
        (if a then 2#32 else 0#32) ||| (if b then 4#32 else 0#32) ||| (if c then 8#32 else 0#32) |||
          (e.setWidth 32 <<< 8) := by decide
  rw [State.statusWord, busy_eq_false_iff.2 h]
  exact fields _ _ _ _

/-- BUF_BYTES fits CAP's 16 bits (R9, R35). -/
theorem capWord_eq {s : State} (h : s.bufBytes ≤ 4096) : s.capWord = BitVec.ofNat 32 s.bufBytes := by
  rw [State.capWord, Nat.mod_eq_of_lt (by omega)]

/-- Settles O46: every offset read here is aligned, so each read is the value of the register the map selects. -/
theorem registerMapReads : Obligations.RegisterMapReads := by
  intro s hp hn
  have reads {off : BitVec 14} (ha : off.toNat % 4 = 0) := busRead_idle hp ha
  refine ⟨reads rfl, ?cap, ?ctrl, ?status, reads rfl, reads rfl, ?_, ?_, ?_, ?_⟩
  case cap => exact (reads rfl).trans (by rw [← capWord_eq hn]; rfl)
  case ctrl => rw [reads rfl]; exact ctrlWord_eq_or s
  case status => rw [reads rfl]; exact statusWord_idle hp
  all_goals rw [reads rfl]; rfl

/-! ## A write to STATUS -/

/-- STATUS is written whether or not a command is in flight (R37, R73). -/
theorem busWrite_status (v : Word) (s : State) : busWrite 0x00C#14 v s = (.okay, s.writeStatus v) := rfl

/-- Settles O50: the state it leaves is `State.writeStatus`, whose two changed bits are masked by the written ones. -/
theorem statusWriteOneToClear : Obligations.StatusWriteOneToClear := by
  intro s v
  refine ⟨s.writeStatus v, busWrite_status v s, rfl, ?_, ?_, ?_, ?_⟩
  all_goals intro hv; simp only [State.writeStatus_done, State.writeStatus_ovr, hv, Bool.not_true, Bool.not_false,
    Bool.and_false, Bool.and_true]

/-! ## The reset state -/

/-- Settles O53: the registers are R42's row by row; the four reads are idle ones. -/
theorem resetState : Obligations.ResetState := by
  have reads {off : BitVec 14} (ha : off.toNat % 4 = 0) := busRead_idle (s := State.reset) rfl ha
  refine ⟨rfl, rfl, rfl, rfl, by decide, rfl, rfl, rfl, rfl, rfl, rfl, rfl, rfl, rfl, rfl, rfl, rfl, rfl, rfl, ?_, ?_, ?_, ?_⟩
  all_goals rw [reads rfl]; rfl

end Sys2Proof.Machine
end

section
namespace Sys2Proof.Machine

/-! ## How long the message commands' outputs are -/

/-- A padded message is a whole number of blocks (R113). -/
theorem length_padBytes (P : Bytes) : (padBytes P).length = 16 * (P.length / 16 + 1) := by
  simp only [padBytes, padCount, List.length_append, length_repByte]
  omega

theorem length_cbcEncryptBlocks (rk : RoundKeys) (prev : Block) (ps : List Block) :
    (cbcEncryptBlocks rk prev ps).1.length = ps.length := by
  induction ps generalizing prev with
  | nil => rfl
  | cons p rest ih => simp [cbcEncryptBlocks, ih]

theorem length_cbcDecryptBlocks (rk : RoundKeys) (prev : Block) (cs : List Block) :
    (cbcDecryptBlocks rk prev cs).1.length = cs.length := by
  induction cs generalizing prev with
  | nil => rfl
  | cons c rest ih => simp [cbcDecryptBlocks, ih]

/-- CBC keeps the number of whole blocks (R105). -/
theorem length_cbcEncrypt (rk : RoundKeys) (v : Block) (P : Bytes) :
    (cbcEncrypt rk v P).1.length = 16 * (P.length / 16) := by
  simp [cbcEncrypt, length_cbcEncryptBlocks]

/-- CBC keeps the number of whole blocks (R106). -/
theorem length_cbcDecrypt (rk : RoundKeys) (v : Block) (C : Bytes) :
    (cbcDecrypt rk v C).1.length = 16 * (C.length / 16) := by
  simp [cbcDecrypt, length_cbcDecryptBlocks]

theorem length_trimLeading_le (R : Bytes) : (trimLeading R).length ≤ R.length := List.length_dropWhile_le _ R

theorem length_trimTrailing_le (R : Bytes) : (trimTrailing R).length ≤ R.length := by
  simpa [trimTrailing] using List.length_dropWhile_le isNul R.reverse

/-- Trimming only removes bytes (R114, R116). -/
theorem length_trim_le (R : Bytes) (lead trail : Bool) : (trim R lead trail).length ≤ R.length := by
  have hl := length_trimLeading_le
  have ht := length_trimTrailing_le R
  cases lead <;> cases trail
  · exact Nat.le_refl _
  · exact ht
  · exact hl R
  · exact (hl _).trans ht

/-- Unpadding only removes bytes (R115). -/
theorem length_le_of_unpadBytes_ok {Q R : Bytes} {lead trail : Bool} (h : unpadBytes Q lead trail = .ok R) :
    R.length ≤ Q.length := by
  obtain ⟨-, rfl⟩ := (unpadBytes_ok_iff Q R lead trail).1 h
  exact (length_trim_le _ lead trail).trans (by simp)

@[simp] theorem State.length_input (s : State) : s.input.length = s.inputLength := Memory.length_slice _ _

/-! ## What a command can do when it completes -/

/-- The next state a command's completion answers: an error some rule raises, or the command's writes under the
conditions that let them happen (R75, R77). -/
inductive Effect (s : State) : Instr → State → Prop
  | error (i : Instr) (c : ErrCode) (raised : c.raised = true) : Effect s i (s.raiseError c)
  | nop : Effect s .nop s.complete
  | keyload (klen : Nat) (fits : klen ≤ 16) :
      Effect s (.keyload klen) (s.loadKey (deriveKey ((blockBytesOf s.keyin).take klen))).complete
  | keyclr : Effect s .keyclr { s with key := zeroBlock, rk := zeroKeys, keyin := zeroBlock, keyValid := false }.complete
  | ecbEnc (key : s.keyValid = true) : Effect s .ecbEnc { s with dout := cipher s.rk s.din }.complete
  | ecbDec (key : s.keyValid = true) : Effect s .ecbDec { s with dout := invCipher s.rk s.din }.complete
  | chainInit : Effect s .chainInit { s with chain := iv }.complete
  | cbcEncBlk (key : s.keyValid = true) :
      Effect s .cbcEncBlk
        { s with dout := cipher s.rk (xorBlock s.din s.chain), chain := cipher s.rk (xorBlock s.din s.chain) }.complete
  | cbcDecBlk (key : s.keyValid = true) :
      Effect s .cbcDecBlk { s with dout := xorBlock (invCipher s.rk s.din) s.chain, chain := s.din }.complete
  | pad (fits : s.inputLength < s.bufBytes) : Effect s .pad (s.output (padBytes s.input)).complete
  | unpad (R : Bytes) (fits : s.inputLength ≤ s.bufBytes) (unpads : unpadBytes s.input s.trimLead s.trimTrail = .ok R) :
      Effect s .unpad (s.output R).complete
  | encMsg (fits : s.inputLength < s.bufBytes) (key : s.keyValid = true) :
      Effect s .encMsg { s.output (cbcEncrypt s.rk iv (padBytes s.input)).1 with
        chain := (cbcEncrypt s.rk iv (padBytes s.input)).2 }.complete
  | decMsg (R : Bytes) (fits : s.inputLength ≤ s.bufBytes) (key : s.keyValid = true)
      (unpads : unpadBytes (cbcDecrypt s.rk iv s.input).1 s.trimLead s.trimTrail = .ok R) :
      Effect s .decMsg { s.output R with chain := (cbcDecrypt s.rk iv s.input).2 }.complete

theorem raised_of_unpadBytes_error {Q : Bytes} {e : ErrCode} {lead trail : Bool}
    (h : unpadBytes Q lead trail = .error e) : e.raised = true := by
  obtain ⟨-, rfl⟩ := (unpadBytes_error_iff Q e lead trail).1 h
  rfl

/-- A command that uses RK has the effect its body has under a loaded key, or ends with INVALID_KEY. -/
theorem effect_of_withKey {i : Instr} {s use t : State} (h : withKey s use = .next t)
    (body : s.keyValid = true → Effect s i use) : Effect s i t := by
  obtain ⟨hk, rfl⟩ | ⟨-, rfl⟩ := withKey_cases h
  · exact body hk
  · exact .error i .invalidKey rfl

theorem inputLength_lt_of_not_tooLongToPad {s : State} (h : ¬ s.tooLongToPad = true) : s.inputLength < s.bufBytes := by
  simpa [State.tooLongToPad] using h

theorem inputLength_le_of_not_badCipherLength {s : State} (h : ¬ s.badCipherLength = true) :
    s.inputLength ≤ s.bufBytes := by
  simp only [State.badCipherLength, decide_eq_true_eq, not_or] at h
  omega

/-- Every next state that a completing command answers is one of its effects. -/
theorem effect_of_exec {i : Instr} {s t : State} (h : exec i s = .next t) : Effect s i t := by
  cases i with
  | nop => cases h; exact .nop
  | keyload klen =>
    change execKeyload klen s = .next t at h
    unfold execKeyload at h
    split at h <;> cases h
    · exact .error _ .keySize rfl
    · exact .keyload klen (by omega)
  | keyclr => cases h; exact .keyclr
  | ecbEnc => exact effect_of_withKey h .ecbEnc
  | ecbDec => exact effect_of_withKey h .ecbDec
  | chainInit => cases h; exact .chainInit
  | cbcEncBlk => exact effect_of_withKey h .cbcEncBlk
  | cbcDecBlk => exact effect_of_withKey h .cbcDecBlk
  | pad =>
    change execPad s = .next t at h
    unfold execPad at h
    split at h <;> cases h
    · exact .error _ .bufferSize rfl
    · exact .pad (inputLength_lt_of_not_tooLongToPad ‹_›)
  | unpad =>
    change execUnpad s = .next t at h
    unfold execUnpad at h
    split at h
    · cases h; exact .error _ .bufferSize rfl
    · have fits := inputLength_le_of_not_badCipherLength ‹_›
      split at h <;> cases h
      · exact .error _ _ (raised_of_unpadBytes_error ‹_›)
      · exact .unpad _ fits ‹_›
  | encMsg =>
    change execEncMsg s = .next t at h
    unfold execEncMsg at h
    split at h
    · cases h; exact .error _ .bufferSize rfl
    · exact effect_of_withKey h (.encMsg (inputLength_lt_of_not_tooLongToPad ‹_›))
  | decMsg =>
    change execDecMsg s = .next t at h
    unfold execDecMsg at h
    split at h
    · cases h; exact .error _ .bufferSize rfl
    · have fits := inputLength_le_of_not_badCipherLength ‹_›
      refine effect_of_withKey h fun key => ?_
      split
      · exact .error _ _ (raised_of_unpadBytes_error ‹_›)
      · exact .decMsg _ fits key ‹_›

/-! ## What one step can do -/

/-- The next step is taken in reset or is an event of the reset input (R142). -/
def State.resetTurn (s : State) : Prop :=
  s.rstN = false ∨ ∃ rest, s.host = .resetAssert :: rest ∨ s.host = .resetRelease :: rest

/-- The state a step can answer, one constructor for each kind of turn of the host or the engine (R56, R71-R75, R142).
What the model's own record of the outside world (`host`, `reply`, `draws`) becomes is said only where a claim needs it. -/
inductive Turn (s : State) : State → Prop
  /-- A read, a transaction outside the window, a misaligned write, an idle engine's turn, a release of a high `rst_n`. -/
  | quiet (events : List HostEvent) (r : Option Reply) (d : Nat) : Turn s { s with host := events, reply := r, draws := d }
  /-- An event of the reset input, or the engine's turn in reset. -/
  | reset (events : List HostEvent) (level : Bool) (cause : s.resetTurn) :
      Turn s { { s with host := events }.resetValues with rstN := level }
  /-- The engine completes the command in flight. -/
  | command (events : List HostEvent) (w : Word) (i : Instr) (t : State) (engine : s.engineNext) (high : s.rstN = true)
      (inFlight : s.pend = some w) (decodes : decode w = .ok i) (effect : Effect { s with host := events } i t) : Turn s t
  /-- The engine completes a word that decodes to no command. -/
  | illegal (events : List HostEvent) (w : Word) (engine : s.engineNext) (high : s.rstN = true) (inFlight : s.pend = some w) :
      Turn s ({ s with host := events }.raiseError .illegalCmd)
  | statusWrite (rest : List HostEvent) (off : BitVec 14) (v : Word) (r : Option Reply) (high : s.rstN = true)
      (next : s.host = .write (s.base + off.toNat) v :: rest) (offset : off.toNat = offStatus) :
      Turn s { { s with host := rest }.writeStatus v with reply := r }
  | droppedWrite (rest : List HostEvent) (off : BitVec 14) (v : Word) (r : Option Reply) (high : s.rstN = true)
      (next : s.host = .write (s.base + off.toNat) v :: rest) (aligned : off.toNat % 4 = 0) (offset : off.toNat ≠ offStatus)
      (busy : s.busy = true) : Turn s { s with host := rest, ovr := true, reply := r }
  | storedWrite (rest : List HostEvent) (off : BitVec 14) (v : Word) (r : Option Reply) (high : s.rstN = true)
      (next : s.host = .write (s.base + off.toNat) v :: rest) (aligned : off.toNat % 4 = 0) (offset : off.toNat ≠ offStatus)
      (idle : s.busy = false) :
      Turn s { writeSlot { s with host := rest } (selectSlot s.bufBytes off) v with reply := r }

/-- The engine's turn, taken once its event is off the schedule: a reset, an idle turn or a completion. -/
theorem engine_turn {s t : State} {rest : List HostEvent} (hn : s.engineNext)
    (h : engineTurn { s with host := rest } = .next t) : Turn s t := by
  obtain ⟨hr, he⟩ | ⟨-, -, he⟩ | ⟨w, hr, hp, he⟩ := engineTurn_cases { s with host := rest } <;> rw [he] at h
  · cases h; exact .reset rest s.rstN (.inl hr)
  · cases h; exact .quiet rest s.reply s.draws
  · obtain ⟨i, hd, hw⟩ | ⟨-, -, hw⟩ := completeWord_cases w { s with host := rest } <;> rw [hw] at h
    · exact .command rest w i t hn hr hp hd (effect_of_exec h)
    · cases h; exact .illegal rest w hn hr hp

theorem read_turn {s t : State} {addr : Nat} {rest : List HostEvent}
    (h : hostTransaction addr (fun off => hostRead off { s with host := rest }) { s with host := rest } = .next t) :
    Turn s t := by
  obtain ⟨-, he⟩ | ⟨off, -, -, he⟩ | ⟨off, -, -, he⟩ := hostTransaction_cases addr _ { s with host := rest } <;>
    rw [he] at h <;> cases h
  · exact .quiet rest none s.draws
  · obtain ⟨-, hb⟩ | ⟨-, -, -, hb⟩ | ⟨-, -, hb⟩ := busRead_cases off { s with host := rest } <;>
      simp only [hostRead, hb] <;> exact .quiet _ _ _

theorem write_turn {s t : State} {addr : Nat} {v : Word} {rest : List HostEvent} (hs : s.host = .write addr v :: rest)
    (h : hostTransaction addr (fun off => hostWrite off v { s with host := rest }) { s with host := rest } = .next t) :
    Turn s t := by
  obtain ⟨-, he⟩ | ⟨off, ho, hr, he⟩ | ⟨off, -, -, he⟩ := hostTransaction_cases addr _ { s with host := rest } <;>
    rw [he] at h <;> cases h
  · exact .quiet rest none s.draws
  · obtain rfl := (windowOffset_eq_some_iff _ _ _).1 ho
    obtain ⟨-, hb⟩ | ⟨hst, hb⟩ | ⟨ha, hst, hbusy, hb⟩ | ⟨ha, hst, hidle, hb⟩ := busWrite_cases off v { s with host := rest } <;>
      simp only [hostWrite, hb]
    · exact .quiet rest _ s.draws
    · exact .statusWrite rest off v _ hr hs hst
    · exact .droppedWrite rest off v _ hr hs ha hst hbusy
    · exact .storedWrite rest off v _ hr hs ha hst hidle

/-- Every step is one of these turns. -/
theorem turn_of_step {s t : State} (h : step s = .next t) : Turn s t := by
  cases hs : s.host with
  | nil =>
    rw [step_unscheduled s hs] at h
    exact engine_turn (rest := s.host) (.inl hs) h
  | cons e rest =>
    rw [step_scheduled s e rest hs] at h
    cases e with
    | read addr => exact read_turn h
    | write addr v => exact write_turn hs h
    | engine => exact engine_turn (.inr ⟨rest, hs⟩) h
    | resetAssert => cases h; exact .reset rest false (.inr ⟨rest, .inl hs⟩)
    | resetRelease =>
      change Host.Outcome.next (State.releaseReset { s with host := rest }) = .next t at h
      unfold State.releaseReset at h
      split at h <;> cases h
      · exact .quiet rest s.reply s.draws
      · exact .reset rest true (.inr ⟨rest, .inr hs⟩)

end Sys2Proof.Machine
end

section
namespace Sys2Proof.Machine

/-! ## What keeps the invariant -/

/-- Every state with legal parameters and its registers at their reset values has the invariant. -/
theorem inv_resetValues {s : State} (hn : Config.legalBufBytes s.bufBytes) (hb : Config.legalBase s.base) (level : Bool) :
    Inv { s.resetValues with rstN := level } where
  bufBytes_legal := hn
  base_legal := hb
  keys_expanded := fun h => nomatch h
  keys_erased := fun _ => ⟨rfl, rfl⟩
  outLen_le := Nat.zero_le _
  err_raised := rfl
  busy_clear := fun h => nomatch h
  ibuf_wf := List.Pairwise.nil
  ibuf_within := fun _ h => nomatch h
  obuf_determined := rfl
  reset_held := fun _ => ⟨rfl, rfl, rfl, rfl, rfl, rfl, rfl, rfl, rfl, rfl, rfl, rfl, rfl, rfl, rfl⟩

/-- The invariant says nothing of the model's own record of the outside world. -/
theorem Inv.record {s : State} (h : Inv s) (events : List HostEvent) (r : Option Reply) (d : Nat) :
    Inv { s with host := events, reply := r, draws := d } := { h with }

/-- BUF_BYTES is a multiple of 16, so a message shorter than it still fits when padded (R9, R117). -/
theorem Inv.padded_fits {s : State} (h : Inv s) (shorter : s.inputLength < s.bufBytes) :
    (padBytes s.input).length ≤ s.bufBytes := by
  have := h.bufBytes_legal.2.2
  rw [length_padBytes, State.length_input]
  omega

section High
variable {s : State} (h : Inv s) (high : s.rstN = true)
include h high

/-- Out of reset nothing is asked of the registers that the other clauses do not name. -/
theorem Inv.registers (keyin chain din dout : Block) (msgLen : BitVec 16) (ie trail lead ovr : Bool) :
    Inv { s with keyin, chain, din, dout, msgLen, ie, trimTrail := trail, trimLead := lead, ovr } :=
  { h with reset_held := fun low => nomatch high.symm.trans low }

theorem Inv.finish {c : ErrCode} (raised : c.raised = true) : Inv (s.finish c) :=
  { h with
    err_raised := raised
    busy_clear := fun hb => nomatch hb
    reset_held := fun low => nomatch high.symm.trans low }

theorem Inv.complete : Inv s.complete := h.finish high rfl

theorem Inv.launch (v : Word) : Inv (s.launch v) :=
  { h with
    err_raised := rfl
    busy_clear := fun _ => ⟨rfl, rfl⟩
    reset_held := fun low => nomatch high.symm.trans low }

theorem Inv.writeStatus (v : Word) : Inv (s.writeStatus v) :=
  { h with
    busy_clear := fun hb => ⟨by simp [(h.busy_clear hb).1], (h.busy_clear hb).2⟩
    reset_held := fun low => nomatch high.symm.trans low }

theorem Inv.loadKey (k : Block) : Inv (s.loadKey k) :=
  { h with
    keys_expanded := fun _ => rfl
    keys_erased := fun hk => nomatch hk
    reset_held := fun low => nomatch high.symm.trans low }

theorem Inv.eraseKey : Inv { s with key := zeroBlock, rk := zeroKeys, keyValid := false } :=
  { h with
    keys_expanded := fun hk => nomatch hk
    keys_erased := fun _ => ⟨rfl, rfl⟩
    reset_held := fun low => nomatch high.symm.trans low }

theorem Inv.writeIbuf {i : Nat} (inside : i + 4 ≤ s.bufBytes) (c : Column) :
    Inv { s with ibuf := s.ibuf.writeColumn i c } :=
  { h with
    ibuf_wf := Memory.writeColumn_wf h.ibuf_wf i c
    ibuf_within := Memory.writeColumn_within h.ibuf_within inside c
    reset_held := fun low => nomatch high.symm.trans low }

/-- A string that fits the buffer has a length OUT_LEN can hold, so OBUF is determined on exactly its bytes (R33). -/
theorem Inv.output {S : Bytes} (fits : S.length ≤ s.bufBytes) : Inv (s.output S) := by
  have len : (BitVec.ofNat 16 S.length).toNat = S.length := by
    have := h.bufBytes_legal.2.1
    exact Nat.mod_eq_of_lt (by omega)
  exact
    { h with
      outLen_le := by rw [State.output_outLen, len]; exact fits
      obuf_determined := by rw [State.output_outLen, len]; exact Memory.filled_indexes s.draws S
      reset_held := fun low => nomatch high.symm.trans low }

/-- A store to a register or window word that the register map selects (R41, R51) keeps the invariant. -/
theorem Inv.writeSlot (off : BitVec 14) (v : Word) : Inv (writeSlot s (selectSlot s.bufBytes off) v) := by
  have lies := selectSlot_liesAt s.bufBytes off
  cases hsl : selectSlot s.bufBytes off with
  | ctrl | msgLen | keyin | din => exact h.registers high _ _ _ _ _ _ _ _ _
  | cmd => exact h.launch high v
  | ibuf i =>
    rw [hsl] at lies
    exact h.writeIbuf high lies.2.1 _
  | _ => exact h

/-- The completion of a command keeps the invariant: each effect is one of the updates above, then `finish`. -/
theorem Inv.effect {i : Instr} {t : State} (e : Effect s i t) : Inv t := by
  cases e with
  | error _ c raised => exact h.finish high raised
  | nop => exact h.complete high
  | keyload => exact (h.loadKey high _).complete high
  | keyclr => exact ((h.eraseKey high).registers high _ _ _ _ _ _ _ _ _).complete high
  | ecbEnc | ecbDec | chainInit | cbcEncBlk | cbcDecBlk =>
    exact (h.registers high _ _ _ _ _ _ _ _ _).complete high
  | pad shorter => exact (h.output high (h.padded_fits shorter)).complete high
  | unpad R fits unpads =>
    have shorter := length_le_of_unpadBytes_ok unpads
    rw [State.length_input] at shorter
    exact (h.output high (shorter.trans fits)).complete high
  | encMsg shorter _ =>
    have fits := h.padded_fits shorter
    have out := h.output high (S := (cbcEncrypt s.rk iv (padBytes s.input)).1) (by rw [length_cbcEncrypt]; omega)
    exact (out.registers high _ _ _ _ _ _ _ _ _).complete high
  | decMsg R fits _ unpads =>
    have shorter := length_le_of_unpadBytes_ok unpads
    rw [length_cbcDecrypt, State.length_input] at shorter
    exact ((h.output high (by omega)).registers high _ _ _ _ _ _ _ _ _).complete high

end High

/-- Every turn keeps the invariant. -/
theorem Inv.turn {s t : State} (h : Inv s) (turn : Turn s t) : Inv t := by
  cases turn with
  | quiet events r d => exact h.record events r d
  | reset events level _ => exact inv_resetValues (s := { s with host := events }) h.bufBytes_legal h.base_legal level
  | command events w i _ _ high _ _ e => exact (h.record events s.reply s.draws).effect high e
  | illegal events w _ high _ => exact (h.record events s.reply s.draws).finish high rfl
  | statusWrite rest off v r high _ _ => exact ((h.record rest s.reply s.draws).writeStatus high v).record rest r s.draws
  | droppedWrite rest off v r high _ _ _ _ => exact (h.registers high _ _ _ _ _ _ _ _ true).record rest r s.draws
  | storedWrite rest off v r high _ _ _ _ =>
    exact ((h.record rest s.reply s.draws).writeSlot high off v).record _ r _

/-- Settles O56: a step is one of the turns of `Turn`, and each keeps the invariant. -/
theorem invariantKeptByStep : Obligations.InvariantKeptByStep := fun _ _ h hst => h.turn (turn_of_step hst)

/-- Settles O55: the reset state is a reset of itself, and its empty schedule issues no transaction. -/
theorem invariantAtReset : Obligations.InvariantAtReset :=
  ⟨inv_resetValues (s := { State.reset with draws := 0 }) (by decide) (by decide) true, rfl⟩

end Sys2Proof.Machine
end

section
namespace Sys2Proof.Machine

/-! ## Who writes what: a completing command -/

section Effect
variable {s t : State} {i : Instr} (e : Effect s i t)
include e

/-- Every effect ends the command (R75). -/
theorem Effect.ends : t.pend = none ∧ t.done = true := by cases e <;> exact ⟨rfl, rfl⟩

/-- What no command writes: the parameters, `rst_n`, the operands the host stores, CTRL and OVR. -/
theorem Effect.frame : t.base = s.base ∧ t.bufBytes = s.bufBytes ∧ t.rstN = s.rstN ∧ t.din = s.din ∧ t.ibuf = s.ibuf ∧
    t.msgLen = s.msgLen ∧ t.ie = s.ie ∧ t.trimTrail = s.trimTrail ∧ t.trimLead = s.trimLead ∧ t.ovr = s.ovr := by
  cases e <;> exact ⟨rfl, rfl, rfl, rfl, rfl, rfl, rfl, rfl, rfl, rfl⟩

theorem Effect.key_writer (ne : t.key ≠ s.key ∨ t.rk ≠ s.rk ∨ t.keyValid ≠ s.keyValid) :
    ∃ k, k ≤ 16 ∧ i ∈ [.keyload k, .keyclr] := by
  cases e with
  | keyload klen fits => exact ⟨klen, fits, by simp⟩
  | keyclr => exact ⟨0, by decide, by simp⟩
  | _ => simp at ne

theorem Effect.keyin_writer (ne : t.keyin ≠ s.keyin) : i ∈ [Instr.keyclr] := by
  cases e with
  | keyclr => simp
  | _ => exact absurd rfl ne

theorem Effect.chain_writer (ne : t.chain ≠ s.chain) :
    i ∈ [Instr.chainInit, .cbcEncBlk, .cbcDecBlk, .encMsg, .decMsg] := by
  cases e with
  | chainInit | cbcEncBlk | cbcDecBlk | encMsg | decMsg => simp
  | _ => exact absurd rfl ne

theorem Effect.dout_writer (ne : t.dout ≠ s.dout) : i ∈ [Instr.ecbEnc, .ecbDec, .cbcEncBlk, .cbcDecBlk] := by
  cases e with
  | ecbEnc | ecbDec | cbcEncBlk | cbcDecBlk => simp
  | _ => exact absurd rfl ne

theorem Effect.output_writer (ne : t.obuf ≠ s.obuf ∨ t.outLen ≠ s.outLen) :
    i ∈ [Instr.pad, .unpad, .encMsg, .decMsg] := by
  cases e with
  | pad | unpad | encMsg | decMsg => simp
  | _ => simp at ne

end Effect

/-! ## Who writes what: a stored bus write -/

section WriteSlot
variable (s : State) (sl : Slot) (v : Word)

/-- What no bus write stores into: the parameters, `rst_n`, the key store and the commands' results (R73). -/
theorem writeSlot_frame :
    (writeSlot s sl v).base = s.base ∧ (writeSlot s sl v).bufBytes = s.bufBytes ∧ (writeSlot s sl v).rstN = s.rstN ∧
    (writeSlot s sl v).key = s.key ∧ (writeSlot s sl v).rk = s.rk ∧ (writeSlot s sl v).keyValid = s.keyValid ∧
    (writeSlot s sl v).chain = s.chain ∧ (writeSlot s sl v).dout = s.dout ∧ (writeSlot s sl v).obuf = s.obuf ∧
    (writeSlot s sl v).outLen = s.outLen ∧ (writeSlot s sl v).ovr = s.ovr := by
  cases sl <;> exact ⟨rfl, rfl, rfl, rfl, rfl, rfl, rfl, rfl, rfl, rfl, rfl⟩

end WriteSlot

/-! ## Who writes what: a step -/

/-- A step that completes the command word in flight. -/
def CompletesWord (s t : State) (w : Word) : Prop := s.engineNext ∧ s.pend = some w ∧ t.pend = none ∧ t.done = true

/-- A step that completes one of the commands `is`. -/
def Completes (s t : State) (is : List Instr) : Prop := ∃ w i, CompletesWord s t w ∧ decode w = .ok i ∧ i ∈ is

/-- A step that is an aligned bus write to an offset from `lo` up to `hi`, with no command in flight. -/
def IdleWrite (s : State) (lo hi : Nat) : Prop := s.pend = none ∧ ∃ v, s.writeNext lo hi v

/-- A step that is the CMD write which launches a command word (R74). -/
def Launches (s t : State) : Prop :=
  s.pend = none ∧ ∃ v, s.writeNext 0x010 0x014 v ∧ t.pend = some v ∧ t.done = false ∧ t.err = .ok

/-- A step by which a command has its effect on the registers and buffers. -/
def HasEffect (s t : State) (i : Instr) : Prop :=
  ∃ w events, CompletesWord s t w ∧ decode w = .ok i ∧ Effect { s with host := events } i t

/-- A step that stores into a slot of the register map. -/
def Stores (s t : State) (sl : Slot) : Prop :=
  ∃ off v rest r, s.host = .write (s.base + off.toNat) v :: rest ∧ off.toNat % 4 = 0 ∧ s.pend = none ∧
    sl = selectSlot s.bufBytes off ∧ t = { writeSlot { s with host := rest } sl v with reply := r }

theorem HasEffect.completes {s t : State} {i : Instr} {is : List Instr} (h : HasEffect s t i) (mem : i ∈ is) :
    Completes s t is :=
  have ⟨w, _, word, decodes, _⟩ := h
  ⟨w, i, word, decodes, mem⟩

/-- A store into a slot is an idle write to the offsets at which the register map has that slot. -/
theorem Stores.idleWrite {s t : State} {sl : Slot} {lo hi : Nat} (h : Stores s t sl)
    (range : ∀ o, sl.liesAt s.bufBytes o → lo ≤ o ∧ o < hi) : IdleWrite s lo hi := by
  obtain ⟨off, v, rest, r, next, aligned, idle, rfl, -⟩ := h
  obtain ⟨above, below⟩ := range _ (selectSlot_liesAt s.bufBytes off)
  exact ⟨idle, v, off.toNat, rest, above, below, aligned, next⟩

theorem Stores.launches {s t : State} (h : Stores s t .cmd) : Launches s t := by
  obtain ⟨off, v, rest, r, next, aligned, idle, slot, rfl⟩ := h
  have lies : off.toNat = 0x010 := by
    have := selectSlot_liesAt s.bufBytes off
    rwa [← slot] at this
  exact ⟨idle, v, ⟨off.toNat, rest, by omega, by omega, aligned, next⟩, rfl, rfl, rfl⟩

section Stores
variable {s t : State} {sl : Slot} (h : Stores s t sl)
include h

theorem Stores.slot_of_keyin_ne (ne : t.keyin ≠ s.keyin) : ∃ j, sl = .keyin j := by
  obtain ⟨_, _, _, _, -, -, -, -, rfl⟩ := h
  cases sl with
  | keyin j => exact ⟨j, rfl⟩
  | _ => exact absurd rfl ne

theorem Stores.slot_of_din_ne (ne : t.din ≠ s.din) : ∃ j, sl = .din j := by
  obtain ⟨_, _, _, _, -, -, -, -, rfl⟩ := h
  cases sl with
  | din j => exact ⟨j, rfl⟩
  | _ => exact absurd rfl ne

theorem Stores.slot_of_ibuf_ne (ne : t.ibuf ≠ s.ibuf) : ∃ i, sl = .ibuf i := by
  obtain ⟨_, _, _, _, -, -, -, -, rfl⟩ := h
  cases sl with
  | ibuf i => exact ⟨i, rfl⟩
  | _ => exact absurd rfl ne

theorem Stores.slot_of_msgLen_ne (ne : t.msgLen ≠ s.msgLen) : sl = .msgLen := by
  obtain ⟨_, _, _, _, -, -, -, -, rfl⟩ := h
  cases sl with
  | msgLen => rfl
  | _ => exact absurd rfl ne

theorem Stores.slot_of_ctrl_ne (ne : t.ie ≠ s.ie ∨ t.trimTrail ≠ s.trimTrail ∨ t.trimLead ≠ s.trimLead) :
    sl = .ctrl := by
  obtain ⟨_, _, _, _, -, -, -, -, rfl⟩ := h
  cases sl with
  | ctrl => rfl
  | _ => simp [writeSlot] at ne

theorem Stores.slot_of_launch_ne (ne : t.pend ≠ s.pend ∨ t.err ≠ s.err ∨ t.done ≠ s.done) : sl = .cmd := by
  obtain ⟨_, _, _, _, -, -, -, -, rfl⟩ := h
  cases sl with
  | cmd => rfl
  | _ => simp [writeSlot] at ne

end Stores

/-- Outside reset a step has one of four forms: a completion that has an effect, one that only ends the command, a store,
and one that changes at most DONE and OVR, where a write to STATUS clears them or a dropped write sets OVR. -/
theorem Turn.writers {s t : State} (turn : Turn s t) (run : ¬ s.resetTurn) :
    (∃ i, HasEffect s t i) ∨
    (∃ w events, CompletesWord s t w ∧ t = { s with host := events }.raiseError .illegalCmd) ∨
    (∃ sl, Stores s t sl) ∨
    (∃ events r d ov dn, t = { s with host := events, reply := r, draws := d, ovr := ov, done := dn } ∧
      (dn ≠ s.done → dn = false ∧ ∃ v, s.writeNext 0x00C 0x010 v ∧ v.getLsbD 1 = true) ∧
      (ov ≠ s.ovr → (ov = false ∧ ∃ v, s.writeNext 0x00C 0x010 v ∧ v.getLsbD 3 = true) ∨
        (ov = true ∧ s.busy = true ∧ ∃ v, s.writeNext 0 0x00C v ∨ s.writeNext 0x010 0x4000 v))) := by
  have cleared {a b : Bool} (ne : (a && !b) ≠ a) : (a && !b) = false ∧ b = true := by
    revert a b
    decide
  cases turn with
  | reset _ _ cause => exact absurd cause run
  | quiet events r d =>
    exact .inr (.inr (.inr ⟨events, r, d, s.ovr, s.done, rfl, fun ne => absurd rfl ne, fun ne => absurd rfl ne⟩))
  | command events w i _ engine _ inFlight decodes effect =>
    exact .inl ⟨i, w, events, ⟨engine, inFlight, effect.ends⟩, decodes, effect⟩
  | illegal events w engine _ inFlight => exact .inr (.inl ⟨w, events, ⟨engine, inFlight, rfl, rfl⟩, rfl⟩)
  | storedWrite rest off v r _ next aligned _ idle =>
    exact .inr (.inr (.inl ⟨_, off, v, rest, r, next, aligned, busy_eq_false_iff.1 idle, rfl, rfl⟩))
  | statusWrite rest off v r _ next offset =>
    have wn : s.writeNext 0x00C 0x010 v := by
      rw [offset] at next
      exact ⟨offStatus, rest, by decide, by decide, by decide, next⟩
    exact .inr (.inr (.inr ⟨rest, r, s.draws, _, _, rfl,
      fun ne => ⟨(cleared ne).1, v, wn, (cleared ne).2⟩, fun ne => .inl ⟨(cleared ne).1, v, wn, (cleared ne).2⟩⟩))
  | droppedWrite rest off v r _ next aligned offset busy =>
    have wn : s.writeNext 0 0x00C v ∨ s.writeNext 0x010 0x4000 v := by
      have inWindow := off.isLt
      unfold offStatus at offset
      obtain below | above : off.toNat < 0x00C ∨ 0x010 ≤ off.toNat := by omega
      · exact .inl ⟨off.toNat, rest, Nat.zero_le _, below, aligned, next⟩
      · exact .inr ⟨off.toNat, rest, above, inWindow, aligned, next⟩
    exact .inr (.inr (.inr ⟨rest, r, s.draws, true, s.done, rfl, fun ne => absurd rfl ne,
      fun _ => .inr ⟨rfl, busy, v, wn⟩⟩))

section Running
variable {s t : State} (turn : Turn s t) (run : ¬ s.resetTurn)
include turn run

/-- The parameters of the machine and the level of `rst_n` have no writer (R9, R142). -/
theorem Turn.parameters : t.base = s.base ∧ t.bufBytes = s.bufBytes ∧ t.rstN = s.rstN := by
  obtain ⟨i, w, events, -, -, e⟩ | ⟨w, events, -, rfl⟩ | ⟨sl, off, v, rest, r, -, -, -, -, rfl⟩ |
    ⟨events, r, d, ov, dn, rfl, -, -⟩ := turn.writers run
  · obtain ⟨hb, hn, hr, -⟩ := e.frame
    exact ⟨hb, hn, hr⟩
  · exact ⟨rfl, rfl, rfl⟩
  · obtain ⟨hb, hn, hr, -⟩ := writeSlot_frame { s with host := rest } sl v
    exact ⟨hb, hn, hr⟩
  · exact ⟨rfl, rfl, rfl⟩

/-- The key store and the commands' results change only by the effect of a command. -/
theorem Turn.hasEffect_of_result_ne (ne : t.key ≠ s.key ∨ t.rk ≠ s.rk ∨ t.keyValid ≠ s.keyValid ∨ t.chain ≠ s.chain ∨
    t.dout ≠ s.dout ∨ t.obuf ≠ s.obuf ∨ t.outLen ≠ s.outLen) : ∃ i, HasEffect s t i := by
  obtain h | ⟨w, events, -, rfl⟩ | ⟨sl, off, v, rest, r, -, -, -, -, rfl⟩ | ⟨events, r, d, ov, dn, rfl, -, -⟩ :=
    turn.writers run
  · exact h
  · simp at ne
  · obtain ⟨-, -, -, hk, hrk, hkv, hc, hd, ho, hl, -⟩ := writeSlot_frame { s with host := rest } sl v
    simp [hk, hrk, hkv, hc, hd, ho, hl] at ne
  · simp at ne

/-- DIN, IBUF, MSG_LEN and CTRL change only by a store. -/
theorem Turn.stores_of_operand_ne (ne : t.din ≠ s.din ∨ t.ibuf ≠ s.ibuf ∨ t.msgLen ≠ s.msgLen ∨ t.ie ≠ s.ie ∨
    t.trimTrail ≠ s.trimTrail ∨ t.trimLead ≠ s.trimLead) : ∃ sl, Stores s t sl := by
  obtain ⟨i, w, events, -, -, e⟩ | ⟨w, events, -, rfl⟩ | h | ⟨events, r, d, ov, dn, rfl, -, -⟩ := turn.writers run
  · obtain ⟨-, -, -, hd, hi, hm, hie, htt, htl, -⟩ := e.frame
    simp [hd, hi, hm, hie, htt, htl] at ne
  · simp at ne
  · exact h
  · simp at ne

theorem Turn.key_writers (ne : t.key ≠ s.key ∨ t.rk ≠ s.rk ∨ t.keyValid ≠ s.keyValid) :
    ∃ k, k ≤ 16 ∧ Completes s t [.keyload k, .keyclr] := by
  obtain ⟨_, h⟩ := turn.hasEffect_of_result_ne run (by tauto)
  have ⟨_, _, _, _, e⟩ := h
  obtain ⟨k, hk, mem⟩ := e.key_writer ne
  exact ⟨k, hk, h.completes mem⟩

theorem Turn.chain_writers (ne : t.chain ≠ s.chain) :
    Completes s t [.chainInit, .cbcEncBlk, .cbcDecBlk, .encMsg, .decMsg] := by
  obtain ⟨_, h⟩ := turn.hasEffect_of_result_ne run (by tauto)
  have ⟨_, _, _, _, e⟩ := h
  exact h.completes (e.chain_writer ne)

theorem Turn.dout_writers (ne : t.dout ≠ s.dout) : Completes s t [.ecbEnc, .ecbDec, .cbcEncBlk, .cbcDecBlk] := by
  obtain ⟨_, h⟩ := turn.hasEffect_of_result_ne run (by tauto)
  have ⟨_, _, _, _, e⟩ := h
  exact h.completes (e.dout_writer ne)

theorem Turn.output_writers (ne : t.obuf ≠ s.obuf ∨ t.outLen ≠ s.outLen) :
    Completes s t [.pad, .unpad, .encMsg, .decMsg] := by
  obtain ⟨_, h⟩ := turn.hasEffect_of_result_ne run (by tauto)
  have ⟨_, _, _, _, e⟩ := h
  exact h.completes (e.output_writer ne)

/-- KEYIN has a writer on each side: KEYCLR and the host. -/
theorem Turn.keyin_writers (ne : t.keyin ≠ s.keyin) : Completes s t [.keyclr] ∨ IdleWrite s 0x020 0x030 := by
  obtain ⟨_, h⟩ | ⟨w, events, -, rfl⟩ | ⟨sl, h⟩ | ⟨events, r, d, ov, dn, rfl, -, -⟩ := turn.writers run
  · have ⟨_, _, _, _, e⟩ := h
    exact .inl (h.completes (e.keyin_writer ne))
  · exact absurd rfl ne
  · obtain ⟨j, rfl⟩ := h.slot_of_keyin_ne ne
    exact .inr (h.idleWrite fun _ lies => lies)
  · exact absurd rfl ne

theorem Turn.din_writers (ne : t.din ≠ s.din) : IdleWrite s 0x050 0x060 := by
  obtain ⟨_, h⟩ := turn.stores_of_operand_ne run (by tauto)
  obtain ⟨j, rfl⟩ := h.slot_of_din_ne ne
  exact h.idleWrite fun _ lies => lies

theorem Turn.ibuf_writers (ne : t.ibuf ≠ s.ibuf) : IdleWrite s 0x1000 (0x1000 + min s.bufBytes 0x1000) := by
  obtain ⟨_, h⟩ := turn.stores_of_operand_ne run (by tauto)
  obtain ⟨i, rfl⟩ := h.slot_of_ibuf_ne ne
  refine h.idleWrite fun o ⟨at_i, inside, below⟩ => ?_
  omega

theorem Turn.msgLen_writers (ne : t.msgLen ≠ s.msgLen) : IdleWrite s 0x014 0x018 := by
  obtain ⟨_, h⟩ := turn.stores_of_operand_ne run (by tauto)
  obtain rfl := h.slot_of_msgLen_ne ne
  exact h.idleWrite fun o (lies : o = 0x014) => by omega

theorem Turn.ctrl_writers (ne : t.ie ≠ s.ie ∨ t.trimTrail ≠ s.trimTrail ∨ t.trimLead ≠ s.trimLead) :
    IdleWrite s 0x008 0x00C := by
  obtain ⟨_, h⟩ := turn.stores_of_operand_ne run (by tauto)
  obtain rfl := h.slot_of_ctrl_ne ne
  exact h.idleWrite fun o (lies : o = 0x008) => by omega

theorem Turn.pend_err_writers (ne : t.pend ≠ s.pend ∨ t.err ≠ s.err) :
    (∃ w, CompletesWord s t w) ∨ Launches s t := by
  obtain ⟨i, w, -, word, -, -⟩ | ⟨w, -, word, -⟩ | ⟨sl, h⟩ | ⟨events, r, d, ov, dn, rfl, -, -⟩ := turn.writers run
  · exact .inl ⟨w, word⟩
  · exact .inl ⟨w, word⟩
  · obtain rfl := h.slot_of_launch_ne (ne.imp_right .inl)
    exact .inr h.launches
  · simp at ne

theorem Turn.done_writers (ne : t.done ≠ s.done) :
    (∃ w, CompletesWord s t w) ∨ Launches s t ∨
      (t.done = false ∧ ∃ v, s.writeNext 0x00C 0x010 v ∧ v.getLsbD 1 = true) := by
  obtain ⟨i, w, -, word, -, -⟩ | ⟨w, -, word, -⟩ | ⟨sl, h⟩ | ⟨events, r, d, ov, dn, rfl, cleared, -⟩ := turn.writers run
  · exact .inl ⟨w, word⟩
  · exact .inl ⟨w, word⟩
  · obtain rfl := h.slot_of_launch_ne (.inr (.inr ne))
    exact .inr (.inl h.launches)
  · exact .inr (.inr (cleared ne))

theorem Turn.ovr_writers (ne : t.ovr ≠ s.ovr) :
    (t.ovr = false ∧ ∃ v, s.writeNext 0x00C 0x010 v ∧ v.getLsbD 3 = true) ∨
    (t.ovr = true ∧ s.busy = true ∧ ∃ v, s.writeNext 0 0x00C v ∨ s.writeNext 0x010 0x4000 v) := by
  obtain ⟨i, w, events, -, -, e⟩ | ⟨w, events, -, rfl⟩ | ⟨sl, off, v, rest, r, -, -, -, -, rfl⟩ |
    ⟨events, r, d, ov, dn, rfl, -, written⟩ := turn.writers run
  · obtain ⟨-, -, -, -, -, -, -, -, -, ho⟩ := e.frame
    exact absurd ho ne
  · exact absurd rfl ne
  · obtain ⟨-, -, -, -, -, -, -, -, -, -, ho⟩ := writeSlot_frame { s with host := rest } sl v
    exact absurd ho ne
  · exact written ne

end Running

/-- Settles O57: the step is a turn outside reset, and each piece of state has its writers by the lemma of its name. -/
theorem onlyNamedWritersChangeState : Obligations.OnlyNamedWritersChangeState := by
  intro s t hst high noEvent
  have turn := turn_of_step hst
  have run : ¬ s.resetTurn := by
    rintro (low | ⟨rest, ev | ev⟩)
    · simp [high] at low
    · exact (noEvent rest).1 ev
    · exact (noEvent rest).2 ev
  obtain ⟨hbase, hsize, hlevel⟩ := turn.parameters run
  exact ⟨hbase, hsize, hlevel.trans high, turn.key_writers run, turn.keyin_writers run, turn.chain_writers run,
    turn.dout_writers run, turn.output_writers run, turn.din_writers run, turn.ibuf_writers run, turn.msgLen_writers run,
    turn.ctrl_writers run, turn.pend_err_writers run, turn.done_writers run, turn.ovr_writers run⟩

end Sys2Proof.Machine
end

section
namespace Sys2Proof.Machine

/-! ## Offsets of the register window -/

/-- The alignment test of R46, on the offset's low bits and on its value. -/
theorem extractLsb'_low_ne_zero_iff (off : BitVec 14) : off.extractLsb' 0 2 ≠ 0#2 ↔ off.toNat % 4 ≠ 0 := by
  simp [BitVec.toNat_eq]

/-- A word's offset from an aligned start is aligned. -/
theorem aligned_ofNat {start : Nat} (h : start % 4 = 0) (j : Nat) :
    (BitVec.ofNat 14 (start + 4 * j)).toNat % 4 = 0 := by
  rw [BitVec.toNat_ofNat]
  omega

/-- An aligned offset is a word's offset from any aligned start below it. -/
theorem ofNat_word_offset {off : BitVec 14} {start : Nat} (aligned : off.toNat % 4 = 0) (h : start % 4 = 0)
    (above : start ≤ off.toNat) : BitVec.ofNat 14 (start + 4 * ((off.toNat - start) / 4)) = off := by
  have : start + 4 * ((off.toNat - start) / 4) = off.toNat := by omega
  rw [this, BitVec.ofNat_toNat, BitVec.setWidth_eq]

/-- Word `j` of each 16-byte register that is no constant has the register's offset and 4 bytes for each word before it
(R41). -/
theorem selectSlot_word (n : Nat) (j : Fin 4) :
    selectSlot n (BitVec.ofNat 14 (0x020 + 4 * j)) = .keyin j ∧ selectSlot n (BitVec.ofNat 14 (0x040 + 4 * j)) = .chain j ∧
    selectSlot n (BitVec.ofNat 14 (0x050 + 4 * j)) = .din j ∧ selectSlot n (BitVec.ofNat 14 (0x060 + 4 * j)) = .dout j := by
  fin_cases j <;> exact ⟨rfl, rfl, rfl, rfl⟩

/-- The words of the two buffer windows that lie inside the buffers (R41, R51). -/
theorem selectSlot_window {n j : Nat} (legal : n ≤ 4096) (inside : 4 * j + 4 ≤ n) :
    selectSlot n (BitVec.ofNat 14 (0x1000 + 4 * j)) = .ibuf (4 * j) ∧
    selectSlot n (BitVec.ofNat 14 (0x2000 + 4 * j)) = .obuf (4 * j) := by
  have offset {start : Nat} (h : start ≤ 0x2000) : (BitVec.ofNat 14 (start + 4 * j)).toNat = start + 4 * j :=
    Nat.mod_eq_of_lt (by omega)
  simp only [selectSlot, offset, Nat.reduceLeDiff, offId, offCap, offCtrl, offStatus, offCmd, offMsgLen, offOutLen,
    offKeyin, offIv, offChain, offDin, offDout, offIbuf, offObuf, offTop, Nat.add_sub_cancel_left, windowSlot]
  constructor <;> simp (disch := omega) only [if_pos, if_neg]

/-- The offsets that R47 and R51 reserve, where a buffer has `n` bytes. -/
def reservedOffset (n o : Nat) : Prop :=
  o = 0x01C ∨ (0x070 ≤ o ∧ o ≤ 0x0FFC) ∨ 0x3000 ≤ o ∨ (0x1000 ≤ o ∧ o < 0x2000 ∧ n < o - 0x1000 + 4) ∨
    (0x2000 ≤ o ∧ o < 0x3000 ∧ n < o - 0x2000 + 4)

/-- The offsets of ID, CAP, OUT_LEN, IV, CHAIN, DOUT and the OBUF window: the host cannot write there (R41, R47). -/
def readOnlyOffset (o : Nat) : Prop :=
  o = 0x000 ∨ o = 0x004 ∨ o = 0x018 ∨ (0x030 ≤ o ∧ o < 0x050) ∨ (0x060 ≤ o ∧ o < 0x070) ∨ (0x2000 ≤ o ∧ o < 0x3000)

/-- No other slot lies at a reserved offset. -/
theorem selectSlot_reserved {n : Nat} {off : BitVec 14} (h : reservedOffset n off.toNat) : selectSlot n off = .reserved := by
  have lies := selectSlot_liesAt n off
  unfold reservedOffset at h
  generalize selectSlot n off = sl at lies ⊢
  cases sl with
  | reserved => rfl
  | _ => simp only [Slot.liesAt] at lies; omega

/-! ## Bus transactions, by what the offset selects -/

/-- R46. -/
theorem busRead_misaligned {off : BitVec 14} (h : off.toNat % 4 ≠ 0) (s : State) : busRead off s = (.error, 0#32, s) := by
  obtain ⟨-, answer⟩ | ⟨aligned, -⟩ | ⟨aligned, -⟩ := busRead_cases off s
  · exact answer
  all_goals exact absurd aligned h

/-- R46. -/
theorem busWrite_misaligned {off : BitVec 14} (h : off.toNat % 4 ≠ 0) (v : Word) (s : State) :
    busWrite off v s = (.error, s) := by
  obtain ⟨-, answer⟩ | ⟨status, -⟩ | ⟨aligned, -⟩ | ⟨aligned, -⟩ := busWrite_cases off v s
  · exact answer
  · exact absurd (by rw [status]; rfl) h
  all_goals exact absurd aligned h

/-- A register that is never unspecified answers its value in flight too (R72, R146). -/
theorem busRead_of_not_volatile {s : State} {off : BitVec 14} (aligned : off.toNat % 4 = 0)
    (h : (selectSlot s.bufBytes off).volatile = false) :
    busRead off s = (.okay, slotValue s (selectSlot s.bufBytes off), s) := by
  obtain ⟨mis, -⟩ | ⟨-, -, volatile, -⟩ | ⟨-, -, answer⟩ := busRead_cases off s
  · exact absurd aligned mis
  · exact nomatch h.symm.trans volatile
  · exact answer

/-- An aligned write with nothing in flight, other than to STATUS, stores into the slot the map selects (R73). -/
theorem busWrite_idle {s : State} {off : BitVec 14} (idle : s.busy = false) (aligned : off.toNat % 4 = 0)
    (offset : off.toNat ≠ offStatus) (v : Word) :
    busWrite off v s = (.okay, writeSlot s (selectSlot s.bufBytes off) v) := by
  obtain ⟨mis, -⟩ | ⟨status, -⟩ | ⟨-, -, busy, -⟩ | ⟨-, -, -, answer⟩ := busWrite_cases off v s
  · exact absurd aligned mis
  · exact absurd status offset
  · exact nomatch idle.symm.trans busy
  · exact answer

/-- A write to a read-only offset selects a slot that no write stores into (R47, R73). -/
theorem writeSlot_readOnly {off : BitVec 14} (h : readOnlyOffset off.toNat) (n : Nat) (v : Word) (s : State) :
    writeSlot s (selectSlot n off) v = s := by
  have lies := selectSlot_liesAt n off
  unfold readOnlyOffset at h
  generalize selectSlot n off = sl at lies ⊢
  cases sl with
  | ctrl | cmd | msgLen | keyin | din | ibuf => simp only [Slot.liesAt] at lies; omega
  | _ => rfl

/-! ## Misaligned transactions, and reads -/

/-- Settles O41: the misaligned case of each of the two transactions. -/
theorem misalignedChangesNothing : Obligations.MisalignedChangesNothing := by
  intro s off v low
  have misaligned := (extractLsb'_low_ne_zero_iff off).1 low
  exact ⟨busRead_misaligned misaligned s, busWrite_misaligned misaligned v s⟩

/-- Settles O45: of the three things a read can do only one draws a value, and that one needs a command in flight. -/
theorem readsChangeNothing : Obligations.ReadsChangeNothing := by
  intro s off
  obtain ⟨-, answer⟩ | ⟨-, busy, -, answer⟩ | ⟨-, -, answer⟩ := busRead_cases off s <;> rw [answer]
  · exact ⟨rfl, fun _ => ⟨rfl, answer⟩⟩
  · exact ⟨rfl, fun idle => nomatch idle.symm.trans busy⟩
  · exact ⟨rfl, fun _ => ⟨rfl, answer⟩⟩

/-! ## Reserved offsets, read-only and write-only registers -/

/-- CTRL has three bits (R36). -/
theorem ctrlWord_lt (s : State) : s.ctrlWord.toNat < 8 := by
  have fields : ∀ a b c : Bool, (BitVec.ofNat 32 (bitNat a + 2 * bitNat b + 4 * bitNat c)).toNat < 8 := by decide
  exact fields _ _ _

theorem busRead_reserved {s : State} {off : BitVec 14} (aligned : off.toNat % 4 = 0)
    (h : reservedOffset s.bufBytes off.toNat) : busRead off s = (.okay, 0#32, s) := by
  have slot := selectSlot_reserved h
  rw [busRead_of_not_volatile aligned (by rw [slot]; rfl), slot]
  rfl

theorem busWrite_reserved {s : State} {off : BitVec 14} (aligned : off.toNat % 4 = 0)
    (h : reservedOffset s.bufBytes off.toNat) (idle : s.busy = false) (v : Word) : busWrite off v s = (.okay, s) := by
  have offset : off.toNat ≠ offStatus := by unfold reservedOffset at h; unfold offStatus; omega
  rw [busWrite_idle idle aligned offset, selectSlot_reserved h]
  rfl

theorem busWrite_readOnly {s : State} {off : BitVec 14} (aligned : off.toNat % 4 = 0) (h : readOnlyOffset off.toNat)
    (idle : s.busy = false) (v : Word) : busWrite off v s = (.okay, s) := by
  have offset : off.toNat ≠ offStatus := by unfold readOnlyOffset at h; unfold offStatus; omega
  rw [busWrite_idle idle aligned offset, writeSlot_readOnly h]

theorem busRead_cmd (s : State) : busRead 0x010#14 s = (.okay, 0#32, s) := busRead_of_not_volatile rfl rfl

theorem busRead_keyin (s : State) (j : Fin 4) : busRead (BitVec.ofNat 14 (0x020 + 4 * j)) s = (.okay, 0#32, s) := by
  obtain ⟨slot, -⟩ := selectSlot_word s.bufBytes j
  rw [busRead_of_not_volatile (aligned_ofNat rfl j) (by rw [slot]; rfl), slot]
  rfl

/-- Settles O42: the offset decides the slot, and the slot what the transaction does. -/
theorem reservedReadsZeroIgnoresWrites : Obligations.ReservedReadsZeroIgnoresWrites := by
  intro s off v aligned
  refine ⟨⟨fun reserved => ⟨busRead_reserved aligned reserved, fun idle => busWrite_reserved aligned reserved idle v⟩,
    fun readOnly idle => busWrite_readOnly aligned readOnly idle v, ?writeOnly⟩, ?ctrl, ?msgLen⟩
  case writeOnly =>
    rintro (cmd | ⟨above, below⟩)
    · obtain rfl : off = 0x010#14 := BitVec.eq_of_toNat_eq cmd
      exact busRead_cmd s
    · rw [← ofNat_word_offset aligned (start := 0x020) rfl above]
      exact busRead_keyin s ⟨(off.toNat - 0x020) / 4, by omega⟩
  case ctrl =>
    rw [busRead_of_not_volatile rfl rfl]
    exact ctrlWord_lt s
  case msgLen =>
    rw [busRead_of_not_volatile rfl rfl]
    exact (BitVec.toNat_setWidth_of_le (by decide)).trans_lt s.msgLen.isLt

/-! ## Words and bytes -/

/-- A word is the little-endian value of its four bytes (R48). -/
theorem toNat_eq_unpackWord (w : Word) :
    w.toNat = (unpackWord w).b0.toNat + 256 * (unpackWord w).b1.toNat + 65536 * (unpackWord w).b2.toNat +
      16777216 * (unpackWord w).b3.toNat := by
  have := w.isLt
  simp only [unpackWord, BitVec.extractLsb'_toNat, Nat.shiftRight_eq_div_pow]
  omega

/-- The value of the word that packs four bytes (R48). -/
theorem toNat_packWord (c : Column) :
    (packWord c).toNat = c.b0.toNat + 256 * c.b1.toNat + 65536 * c.b2.toNat + 16777216 * c.b3.toNat := by
  rw [toNat_eq_unpackWord, unpackWord_packWord]

/-- Word `j` of a 16-byte register carries bytes `4j` to `4j+3` of its byte string (R41, R48). -/
theorem blockColumn_eq_columnAt (x : Block) (j : Fin 4) : blockColumn x j = columnAt (blockBytesOf x) (4 * j) := by
  fin_cases j <;> rfl

/-- Byte `a` of a buffer after a window word's write at `i`: byte `a - i` of the word, where it has one (R51). -/
theorem Memory.read_writeColumn_unpackWord (m : Memory) (i a : Nat) (v : Word) :
    (m.writeColumn i (unpackWord v)).read a =
      if i ≤ a ∧ a < i + 4 then v.extractLsb' (8 * (a - i)) 8 else m.read a := by
  rw [Memory.read_writeColumn]
  by_cases inside : i ≤ a ∧ a < i + 4
  · obtain ⟨k, rfl⟩ := Nat.exists_eq_add_of_le inside.1
    have : k < 4 := by omega
    rw [if_pos inside]
    interval_cases k <;> simp [unpackWord]
  · rw [if_neg inside, if_neg, if_neg, if_neg, if_neg] <;> omega

/-- An idle read of a slot that carries four bytes gives their little-endian value (R48, R72). -/
theorem toNat_busRead_idle {s : State} {off : BitVec 14} {sl : Slot} {c : Column} (idle : s.pend = none)
    (aligned : off.toNat % 4 = 0) (slot : selectSlot s.bufBytes off = sl) (carries : slotValue s sl = packWord c) :
    (busRead off s).2.1.toNat = c.b0.toNat + 256 * c.b1.toNat + 65536 * c.b2.toNat + 16777216 * c.b3.toNat := by
  rw [busRead_idle idle aligned, slot, carries, toNat_packWord]

/-- Settles O47: each word's slot carries the column of bytes the statement lists. -/
theorem wordsPackLittleEndian : Obligations.WordsPackLittleEndian := by
  intro s idle legal
  refine ⟨fun j hj => ?registers, fun j inside => ?windows⟩
  case registers =>
    obtain ⟨-, chain, din, dout⟩ := selectSlot_word s.bufBytes ⟨j, hj⟩
    have carries (x : Block) := congrArg packWord (blockColumn_eq_columnAt x ⟨j, hj⟩)
    exact ⟨toNat_busRead_idle idle (aligned_ofNat rfl j) chain (carries s.chain),
      toNat_busRead_idle idle (aligned_ofNat rfl j) din (carries s.din),
      toNat_busRead_idle idle (aligned_ofNat rfl j) dout (carries s.dout)⟩
  case windows =>
    obtain ⟨ibuf, obuf⟩ := selectSlot_window legal inside
    exact ⟨toNat_busRead_idle idle (aligned_ofNat rfl j) ibuf rfl, toNat_busRead_idle idle (aligned_ofNat rfl j) obuf rfl⟩

/-- Settles O48: the buffer it leaves is `Memory.writeColumn`, whose word at `4j` is the one written. -/
theorem ibufWriteStoresFourBytes : Obligations.IbufWriteStoresFourBytes := by
  intro s j v idle legal inside
  obtain ⟨slot, -⟩ := selectSlot_window legal inside
  have aligned := aligned_ofNat (start := 0x1000) rfl j
  have offset : (BitVec.ofNat 14 (0x1000 + 4 * j)).toNat ≠ offStatus := by
    rw [BitVec.toNat_ofNat, offStatus]
    omega
  refine ⟨s.ibuf.writeColumn (4 * j) (unpackWord v), ?stored, fun a => Memory.read_writeColumn_unpackWord _ _ a v, ?readBack⟩
  case stored =>
    rw [busWrite_idle (busy_eq_false_iff.2 idle) aligned offset, slot]
    rfl
  case readBack =>
    rw [busRead_idle ?idle aligned, slot]
    case idle => exact idle
    exact (congrArg packWord (Memory.column_writeColumn_same _ _ _)).trans (packWord_unpackWord v)

end Sys2Proof.Machine
end

section
namespace Sys2Proof.Machine

/-! ## The host's turn -/

/-- The addresses that are not ENCDEC's (R44). -/
theorem windowOffset_outside {base addr : Nat} (h : addr < base ∨ base + 0x4000 ≤ addr) : windowOffset base addr = none := by
  unfold windowOffset windowBytes
  exact if_neg (by omega)

/-- The addresses that are ENCDEC's (R44). -/
theorem windowOffset_inside {base addr : Nat} (above : base ≤ addr) (below : addr < base + 0x4000) :
    windowOffset base addr = some (BitVec.ofNat 14 (addr - base)) := if_pos ⟨above, below⟩

section Transaction
variable {s : State} {addr : Nat} (run : BitVec 14 → State)

/-- Outside the window nothing is answered (R44). -/
theorem hostTransaction_outside (h : addr < s.base ∨ s.base + 0x4000 ≤ addr) :
    hostTransaction addr run s = .next { s with reply := none } := by
  rw [hostTransaction, windowOffset_outside h]

/-- Inside the window the transaction runs at its offset (R44). -/
theorem hostTransaction_runs {off : BitVec 14} (h : addr = s.base + off.toNat) (high : s.rstN = true) :
    hostTransaction addr run s = .next (run off) := by
  rw [hostTransaction, (windowOffset_eq_some_iff _ _ _).2 h]
  exact if_pos high

/-- In reset a transaction inside the window is refused (R142). -/
theorem hostTransaction_refused (above : s.base ≤ addr) (below : addr < s.base + 0x4000) (low : s.rstN = false) :
    hostTransaction addr run s = .refused .busDuringReset := by
  rw [hostTransaction, windowOffset_inside above below]
  exact if_neg (by simp [low])

end Transaction

/-- A turn of the host's is a transaction at the event's address, a read or a write (R44). -/
theorem step_transaction {s : State} {rest : List HostEvent} {addr : Nat} {v : Word}
    (h : s.host = .read addr :: rest ∨ s.host = .write addr v :: rest) :
    ∃ run, step s = hostTransaction addr run { s with host := rest } := by
  obtain read | write := h
  · exact ⟨_, step_scheduled s _ rest read⟩
  · exact ⟨_, step_scheduled s _ rest write⟩

/-- Settles O7: the step is the scheduled transaction, which runs, is not ENCDEC's, or is refused. -/
theorem stepRunsBusTransaction : Obligations.StepRunsBusTransaction := by
  intro s rest addr v
  refine ⟨fun off inside high => ⟨fun read => ?_, fun write => ?_⟩, fun outside turn => ?_, fun above below low turn => ?_⟩
  · exact (step_scheduled s _ rest read).trans (hostTransaction_runs _ inside high)
  · exact (step_scheduled s _ rest write).trans (hostTransaction_runs _ inside high)
  · obtain ⟨run, transaction⟩ := step_transaction turn
    exact transaction.trans (hostTransaction_outside run outside)
  · obtain ⟨run, transaction⟩ := step_transaction turn
    exact transaction.trans (hostTransaction_refused run above below low)

end Sys2Proof.Machine
end

section
namespace Sys2Proof
open Laws.EncodedFields (operand)

/-! ## The fields of a command word -/

/-- R61's four fields as digits of the word's value. -/
theorem fields_eq_digits (w : Word) : opField w = w.toNat % 16 ∧ rsv0Field w = w.toNat / 16 % 16 ∧
    klenField w = w.toNat / 256 % 32 ∧ rsv1Field w = w.toNat / 8192 := by
  have lt := w.isLt
  simp only [opField, rsv0Field, klenField, rsv1Field, BitVec.extractLsb'_toNat, Nat.shiftRight_eq_div_pow,
    Nat.reducePow, Nat.div_one, true_and]
  omega

/-- A word is its four fields (R61). -/
theorem toNat_eq_fields (w : Word) :
    w.toNat = opField w + 16 * rsv0Field w + 256 * klenField w + 8192 * rsv1Field w := by
  obtain ⟨op, rsv0, klen, rsv1⟩ := fields_eq_digits w
  omega

/-- Words that agree on every field are equal (R61). -/
theorem word_ext {v w : Word} (op : opField v = opField w) (klen : klenField v = klenField w)
    (rsv0 : rsv0Field v = rsv0Field w) (rsv1 : rsv1Field v = rsv1Field w) : v = w := by
  apply BitVec.eq_of_toNat_eq
  rw [toNat_eq_fields v, toNat_eq_fields w, op, klen, rsv0, rsv1]

theorem klenField_lt (w : Word) : klenField w < 32 := BitVec.isLt _

/-- The mask of KEYLOAD's row clears KLEN and keeps the other fields (R64). -/
theorem fields_keyload_mask (w : Word) :
    opField (w &&& 0xFFFFE0FF#32) = opField w ∧ klenField (w &&& 0xFFFFE0FF#32) = 0 ∧
    rsv0Field (w &&& 0xFFFFE0FF#32) = rsv0Field w ∧ rsv1Field (w &&& 0xFFFFE0FF#32) = rsv1Field w := by
  have op : (0xFFFFE0FF#32).extractLsb' 0 4 = BitVec.allOnes 4 := by decide
  have klen : (0xFFFFE0FF#32).extractLsb' 8 5 = 0#5 := by decide
  have rsv0 : (0xFFFFE0FF#32).extractLsb' 4 4 = BitVec.allOnes 4 := by decide
  have rsv1 : (0xFFFFE0FF#32).extractLsb' 13 19 = BitVec.allOnes 19 := by decide
  simp only [opField, klenField, rsv0Field, rsv1Field, BitVec.extractLsb'_and, op, klen, rsv0, rsv1,
    BitVec.and_allOnes, BitVec.and_zero, BitVec.toNat_ofNat, Nat.zero_mod, and_self]

/-- A word matches KEYLOAD's row exactly where OP is 1 and the reserved fields are 0, whatever KLEN is (R64). -/
theorem and_keyload_mask_eq_iff (w : Word) :
    w &&& 0xFFFFE0FF#32 = 0x00000001#32 ↔ opField w = 1 ∧ rsv0Field w = 0 ∧ rsv1Field w = 0 := by
  obtain ⟨op, klen, rsv0, rsv1⟩ := fields_keyload_mask w
  constructor
  · intro h
    rw [← op, ← rsv0, ← rsv1, h]
    decide
  · rintro ⟨op1, rsv00, rsv10⟩
    exact word_ext (op.trans op1) klen (rsv0.trans rsv00) (rsv1.trans rsv10)

/-- R67's test for the rows without an operand: every field but OP is 0. -/
theorem ushiftRight_four_eq_zero_iff (w : Word) :
    w >>> 4 = 0#32 ↔ klenField w = 0 ∧ rsv0Field w = 0 ∧ rsv1Field w = 0 := by
  obtain ⟨-, rsv0, klen, rsv1⟩ := fields_eq_digits w
  rw [← BitVec.toNat_inj, BitVec.toNat_ushiftRight, Nat.shiftRight_eq_div_pow, BitVec.toNat_ofNat]
  omega

/-! ## Commands as an opcode and an operand -/

theorem opcode_eq_zero_iff (i : Instr) : opcode i = 0 ↔ i = .nop := by cases i <;> simp [opcode]

theorem keyload_eq_iff (i : Instr) (k : Nat) : Instr.keyload k = i ↔ opcode i = 1 ∧ operand i = k := by
  cases i <;> simp [opcode, operand, eq_comm]

/-- R67 finds the commands with opcode 2 or more by OP alone. -/
theorem decodeOp_eq_some_iff (op : Nat) (i : Instr) : decodeOp op = some i ↔ opcode i = op ∧ 2 ≤ op := by
  constructor
  · intro h
    unfold decodeOp at h
    split at h <;> cases h <;> decide
  · rintro ⟨rfl, h⟩
    cases i with
    | nop | keyload => simp [opcode] at h
    | _ => rfl

/-- Only OP 1 has an operand (R62). -/
theorem operand_eq_zero {i : Instr} (h : opcode i ≠ 1) : operand i = 0 := by
  cases i with
  | keyload k => exact absurd rfl h
  | _ => rfl

/-- The opcodes and operands of the commands (R64): OP is at most 0xB, and only OP 1 has an operand. -/
theorem exists_command_iff (op k : Nat) : (∃ i, opcode i = op ∧ operand i = k) ↔ op < 0xC ∧ (k = 0 ∨ op = 1) := by
  constructor
  · rintro ⟨i, rfl, rfl⟩
    cases i <;> simp [opcode, operand]
  · rintro ⟨below, rfl | rfl⟩
    · have table : ∀ op < 0xC, op = 0 ∨ op = 1 ∨ (decodeOp op).isSome := by decide
      obtain rfl | rfl | found := table op below
      · exact ⟨.nop, rfl, rfl⟩
      · exact ⟨.keyload 0, rfl, rfl⟩
      · obtain ⟨i, h⟩ := Option.isSome_iff_exists.1 found
        obtain ⟨rfl, two⟩ := (decodeOp_eq_some_iff op i).1 h
        exact ⟨i, rfl, operand_eq_zero (by omega)⟩
    · exact ⟨.keyload k, rfl, rfl⟩

/-! ## What the decoder answers, by the fields -/

/-- The last branches of R67's decoder: a word that is neither NOP's nor KEYLOAD's. -/
theorem decode_of_ne_nop_keyload {w : Word} (nop : w ≠ 0x00000000#32) (keyload : w &&& 0xFFFFE0FF#32 ≠ 0x00000001#32)
    (i : Instr) : decode w = .ok i ↔ w >>> 4 = 0#32 ∧ decodeOp (opField w) = some i := by
  simp only [decode, nop, keyload, if_false]
  split
  next small =>
    cases decodeOp (opField w) <;> simp [small]
  next large => simp [large]

/-- A word decodes to a command exactly where its fields are the command's (R61, R64, R67). -/
theorem decode_eq_ok_iff (w : Word) (i : Instr) :
    decode w = .ok i ↔ opcode i = opField w ∧ operand i = klenField w ∧ rsv0Field w = 0 ∧ rsv1Field w = 0 := by
  by_cases nop : w = 0x00000000#32
  · subst nop
    have fields : opField 0#32 = 0 ∧ klenField 0#32 = 0 ∧ rsv0Field 0#32 = 0 ∧ rsv1Field 0#32 = 0 := by decide
    obtain ⟨op, klen, rsv0, rsv1⟩ := fields
    rw [op, klen, rsv0, rsv1, opcode_eq_zero_iff]
    constructor
    · rintro ⟨⟩
      exact ⟨rfl, rfl, rfl, rfl⟩
    · rintro ⟨rfl, -⟩
      rfl
  by_cases keyload : w &&& 0xFFFFE0FF#32 = 0x00000001#32
  · obtain ⟨op, rsv0, rsv1⟩ := (and_keyload_mask_eq_iff w).1 keyload
    simp only [decode, nop, keyload, if_true, if_false, Except.ok.injEq, keyload_eq_iff, op, rsv0, rsv1, and_true]
  rw [decode_of_ne_nop_keyload nop keyload, ushiftRight_four_eq_zero_iff, decodeOp_eq_some_iff]
  constructor
  · rintro ⟨⟨klen, rsv0, rsv1⟩, op, two⟩
    exact ⟨op, by rw [klen, operand_eq_zero (by omega)], rsv0, rsv1⟩
  · rintro ⟨op, klen, rsv0, rsv1⟩
    have op_ne_one : opcode i ≠ 1 := fun one => keyload ((and_keyload_mask_eq_iff w).2 ⟨op ▸ one, rsv0, rsv1⟩)
    have klen_zero : klenField w = 0 := klen ▸ operand_eq_zero op_ne_one
    have op_ne_zero : opField w ≠ 0 := fun zero => nop (word_ext zero klen_zero rsv0 rsv1)
    exact ⟨⟨klen_zero, rsv0, rsv1⟩, op, by omega⟩

/-- The family EncodedFields over every command. -/
theorem fields_encode (i : Instr) : Laws.EncodedFields.Statement i := by
  cases i with
  | nop => exact Laws.EncodedFields.nop
  | keyload klen => exact Laws.EncodedFields.keyload klen
  | keyclr => exact Laws.EncodedFields.keyclr
  | ecbEnc => exact Laws.EncodedFields.ecbEnc
  | ecbDec => exact Laws.EncodedFields.ecbDec
  | chainInit => exact Laws.EncodedFields.chainInit
  | cbcEncBlk => exact Laws.EncodedFields.cbcEncBlk
  | cbcDecBlk => exact Laws.EncodedFields.cbcDecBlk
  | pad => exact Laws.EncodedFields.pad
  | unpad => exact Laws.EncodedFields.unpad
  | encMsg => exact Laws.EncodedFields.encMsg
  | decMsg => exact Laws.EncodedFields.decMsg

/-- A command is well formed where its operand fits the five bits of KLEN (R62). -/
theorem wellFormed_iff_operand_lt (i : Instr) : i.wellFormed = true ↔ operand i < 32 := by
  cases i <;> simp [Instr.wellFormed, operand, Nat.lt_succ_iff]

/-- Settles O1: both sides say that the word's fields are the command's. -/
theorem decodeInvertsEncode : Obligations.DecodeInvertsEncode := by
  intro i w
  rw [decode_eq_ok_iff]
  constructor
  · rintro ⟨op, klen, rsv0, rsv1⟩
    have fits : i.wellFormed = true := (wellFormed_iff_operand_lt i).2 (klen ▸ klenField_lt w)
    obtain ⟨op', klen', rsv0', rsv1'⟩ := fields_encode i fits
    exact ⟨fits, word_ext (op'.trans op) (klen'.trans klen) (rsv0'.trans rsv0.symm) (rsv1'.trans rsv1.symm)⟩
  · rintro ⟨fits, rfl⟩
    obtain ⟨op, klen, rsv0, rsv1⟩ := fields_encode i fits
    exact ⟨op.symm, klen.symm, rsv0, rsv1⟩

/-! ## Legal words, and the rows of the opcode map -/

/-- The legal words: what is left when R65's causes are taken away. -/
theorem exists_decode_ok_iff (w : Word) : (∃ i, decode w = .ok i) ↔
    (opField w < 0xC ∧ (klenField w = 0 ∨ opField w = 1)) ∧ rsv0Field w = 0 ∧ rsv1Field w = 0 := by
  simp only [decode_eq_ok_iff, ← exists_command_iff, ← and_assoc, exists_and_right]

/-- The row number is the opcode: row 1 leaves KLEN out, every other row fixes the whole word (R64). -/
theorem row_shape {n : Nat} {r : OpcodeRow} (row : opcodeRows[n]? = some r) :
    (n = 1 ∧ r.mask = 0xFFFFE0FF#32 ∧ r.value = 0x00000001#32) ∨
    (n < 0xC ∧ n ≠ 1 ∧ r.mask = 0xFFFFFFFF#32 ∧ r.value = BitVec.ofNat 32 n) := by
  have rows : ∀ n : Fin opcodeRows.length,
      (n.val = 1 ∧ opcodeRows[n].mask = 0xFFFFE0FF#32 ∧ opcodeRows[n].value = 0x00000001#32) ∨
      (n.val < 0xC ∧ n.val ≠ 1 ∧ opcodeRows[n].mask = 0xFFFFFFFF#32 ∧ opcodeRows[n].value = BitVec.ofNat 32 n) := by decide
  obtain ⟨below, rfl⟩ := List.getElem?_eq_some_iff.1 row
  exact rows ⟨n, below⟩

/-- A word with nothing but an opcode (R64). -/
theorem eq_ofNat_opcode_iff (w : Word) {n : Nat} (h : n < 0xC) :
    w = BitVec.ofNat 32 n ↔ opField w = n ∧ klenField w = 0 ∧ rsv0Field w = 0 ∧ rsv1Field w = 0 := by
  have fields : ∀ n < 0xC, opField (BitVec.ofNat 32 n) = n ∧ klenField (BitVec.ofNat 32 n) = 0 ∧
      rsv0Field (BitVec.ofNat 32 n) = 0 ∧ rsv1Field (BitVec.ofNat 32 n) = 0 := by decide
  obtain ⟨op, klen, rsv0, rsv1⟩ := fields n h
  constructor
  · rintro rfl
    exact fields n h
  · rintro ⟨op', klen', rsv0', rsv1'⟩
    exact word_ext (op'.trans op.symm) (klen'.trans klen.symm) (rsv0'.trans rsv0.symm) (rsv1'.trans rsv1.symm)

/-- A word matches a row exactly where it decodes to a command with the row's opcode (R64). -/
theorem matches_row_iff (w : Word) {n : Nat} {r : OpcodeRow} (row : opcodeRows[n]? = some r) :
    w &&& r.mask = r.value ↔ ∃ i, decode w = .ok i ∧ opcode i = n := by
  have legal : (∃ i, decode w = .ok i ∧ opcode i = n) ↔ (∃ i, decode w = .ok i) ∧ opField w = n := by
    rw [← exists_and_right]
    refine exists_congr fun i => and_congr_right fun h => ?_
    rw [((decode_eq_ok_iff w i).1 h).1]
  rw [legal, exists_decode_ok_iff]
  obtain ⟨rfl, mask, value⟩ | ⟨below, other, mask, value⟩ := row_shape row
  · rw [mask, value, and_keyload_mask_eq_iff]
    omega
  · have whole : w &&& 0xFFFFFFFF#32 = w := BitVec.and_allOnes
    rw [mask, value, whole, eq_ofNat_opcode_iff w below]
    omega

/-- Each command has the row of its opcode, under its mnemonic (R64). -/
theorem exists_row (i : Instr) : ∃ r, opcodeRows[opcode i]? = some r ∧ r.mnemonic = mnemonic i := by
  cases i <;> exact ⟨_, rfl, rfl⟩

/-- Settles O2: the row number is the opcode, so a word's command names its row and no two rows match one word. -/
theorem decodeFollowsOpcodeMap : Obligations.DecodeFollowsOpcodeMap := by
  refine ⟨rfl, fun w => ⟨fun i h => ?_, fun r mem hit => ?_, fun r mem q mem' hit hit' => ?_⟩⟩
  · obtain ⟨r, row, name⟩ := exists_row i
    exact ⟨r, List.mem_of_getElem? row, name, (matches_row_iff w row).2 ⟨i, h, rfl⟩⟩
  · obtain ⟨n, row⟩ := List.getElem?_of_mem mem
    obtain ⟨i, h, rfl⟩ := (matches_row_iff w row).1 hit
    obtain ⟨r', row', name⟩ := exists_row i
    obtain rfl : r = r' := Option.some.inj (row.symm.trans row')
    exact ⟨i, h, name.symm⟩
  · obtain ⟨n, row⟩ := List.getElem?_of_mem mem
    obtain ⟨m, row'⟩ := List.getElem?_of_mem mem'
    obtain ⟨i, h, rfl⟩ := (matches_row_iff w row).1 hit
    obtain ⟨j, h', rfl⟩ := (matches_row_iff w row').1 hit'
    obtain rfl : i = j := Except.ok.inj (h.symm.trans h')
    exact Option.some.inj (row.symm.trans row')

/-! ## Illegal words -/

/-- R65's list of causes. -/
theorem exists_decode_error_iff (w : Word) : (∃ e, decode w = .error e) ↔
    (0xC ≤ opField w ∨ rsv0Field w ≠ 0 ∨ rsv1Field w ≠ 0 ∨ (klenField w ≠ 0 ∧ opField w ≠ 0x1)) := by
  have not_ok : (∃ e, decode w = .error e) ↔ ¬ ∃ i, decode w = .ok i := by cases decode w <;> simp
  rw [not_ok, exists_decode_ok_iff]
  omega

/-- Settles O4: a sample that is a command is the command's encoding; the others are evaluated. -/
theorem sampleWordsDecode : Obligations.SampleWordsDecode := by
  have sample (i : Instr) (fits : i.wellFormed = true) : decode (encode i) = .ok i := (decodeInvertsEncode i _).2 ⟨fits, rfl⟩
  exact ⟨sample .nop rfl, sample (.keyload 14) rfl, sample (.keyload 31) rfl, sample .keyclr rfl, sample .ecbEnc rfl,
    sample .cbcDecBlk rfl, sample .pad rfl, sample .encMsg rfl, rfl, rfl, rfl⟩

end Sys2Proof
end

section
namespace Sys2Proof.Machine

/-! ## Illegal words written to CMD -/

/-- Settles O3: while idle a write to CMD launches its word, and a word that decodes to nothing completes as an error. -/
theorem illegalWordsAreReported : Obligations.IllegalWordsAreReported := by
  refine fun w => ⟨exists_decode_error_iff w, fun s e illegal idle => ⟨s.launch w, ?_, rfl, ?_, rfl⟩⟩
  · exact busWrite_idle idle rfl (by decide) w
  · obtain ⟨i, legal, -⟩ | ⟨-, -, completes⟩ := completeWord_cases w (s.launch w)
    · exact nomatch illegal.symm.trans legal
    · exact completes

/-! ## The assembler's commands (R69) -/

/-- Leading zeros are read as digits of the operand (assumption log 18). -/
theorem decNumber_zeros_toDigits (z n : Nat) : decNumber (List.replicate z '0' ++ Nat.toDigits 10 n) = some n := by
  simp only [decNumber, List.isEmpty_iff, List.append_eq_nil_iff, toDigits_ne_nil (by decide : 1 < 10) n, and_false, if_false,
    digitsValue_zeros (by decide : 1 < 10), digitsValue_toDigits (by decide : 1 < 10) (by decide)]

/-- The assembler finds each row of the opcode map by its mnemonic. -/
theorem find_mnemonic : ∀ r ∈ opcodeRows, opcodeRows.find? (fun q => q.mnemonic.toList == r.mnemonic.toList) = some r := by
  decide +kernel

/-- No row but KEYLOAD's has a mask that leaves bits out (R64). -/
theorem mask_of_ne_keyload : ∀ r ∈ opcodeRows, r.mnemonic ≠ "KEYLOAD" → r.mask = 0xFFFFFFFF#32 := by decide

theorem find_keyload : opcodeRows.find? (fun q => q.mnemonic.toList == "KEYLOAD".toList) =
    some ⟨"KEYLOAD", 0x00000001#32, 0xFFFFE0FF#32⟩ :=
  find_mnemonic ⟨"KEYLOAD", 0x00000001#32, 0xFFFFE0FF#32⟩ (by decide)

/-- KEYLOAD takes the numbers that fit KLEN and no others. -/
theorem asmCommand_keyload {cs : List Char} {k : Nat} (h : decNumber cs = some k) :
    asmCommand "KEYLOAD".toList (some cs) = if k ≤ 31 then some (encode (.keyload k)) else none := by
  have leaves_out : (0xFFFFE0FF#32 : Word) ≠ 0xFFFFFFFF#32 := by decide
  simp only [asmCommand, find_keyload, h, Instr.wellFormed, decide_eq_true_eq, leaves_out, ne_eq, not_false_eq_true, true_and]

theorem asmCommand_keyload_bare : asmCommand "KEYLOAD".toList none = none := by
  rw [asmCommand, find_keyload]
  rfl

theorem asmCommand_not_number {cs : List Char} (h : decNumber cs = none) (name : List Char) :
    asmCommand name (some cs) = none := by
  unfold asmCommand
  split
  · rfl
  · simp only [h]

theorem asmCommand_no_operand {r : OpcodeRow} (mem : r ∈ opcodeRows) (other : r.mnemonic ≠ "KEYLOAD") :
    asmCommand r.mnemonic.toList none = some r.value := by
  simp only [asmCommand, find_mnemonic r mem, mask_of_ne_keyload r mem other, if_true]

theorem asmCommand_refuses_operand {r : OpcodeRow} (mem : r ∈ opcodeRows) (other : r.mnemonic ≠ "KEYLOAD") (cs : List Char) :
    asmCommand r.mnemonic.toList (some cs) = none := by
  simp only [asmCommand, find_mnemonic r mem, mask_of_ne_keyload r mem other]
  cases decNumber cs <;> simp

/-- `.word` and the hex digits of a word assemble to that word (R69). -/
theorem asmValue_word {cs : List Char} {n : Nat} (ne : cs ≠ []) (h : digitsValue 16 0 cs = some n) (lt : n < 2 ^ 32) :
    asmValue [".word".toList, '0' :: 'x' :: cs] = some (BitVec.ofNat 32 n) := by
  have word : ".word".toList = ['.', 'w', 'o', 'r', 'd'] := by simp
  rw [word]
  simp only [asmValue, hexNumber_eq ne, h, lt, if_true]

/-- Settles O5: every decimal operand is read back as its number, and leading zeros and capitals leave the number that hex
digits write as it is. -/
theorem assemblerFollowsOpcodeMap : Obligations.AssemblerFollowsOpcodeMap := by
  refine ⟨fun k fits => ?_, fun k above => ?_, fun z k => ?_, fun cs h => asmCommand_not_number h _,
    asmCommand_keyload_bare, fun r mem other => ⟨asmCommand_no_operand mem other, asmCommand_refuses_operand mem other⟩,
    fun n lt => ?_⟩
  · rw [asmCommand_keyload (decNumber_toDigits k), if_pos fits]
  · rw [asmCommand_keyload (decNumber_toDigits k), if_neg (by omega)]
  · rw [asmCommand_keyload (decNumber_zeros_toDigits z k), asmCommand_keyload (decNumber_toDigits k)]
  · have short : (Nat.toDigits 16 n).length ≤ 8 := Nat.toDigits_length 16 n 8 (by decide) lt
    have digits := digitsValue_toDigits (by decide : 1 < 16) (by decide) n
    have ne := toDigits_ne_nil (by decide : 1 < 16) n
    intro eight
    have eight_ne : eight ≠ [] := by simp [eight, ne]
    have eight_digits : digitsValue 16 0 eight = some n := (digitsValue_zeros (by decide) _ _).trans digits
    refine ⟨?_, asmValue_word eight_ne eight_digits lt, asmValue_word ?_ ?_ lt, asmValue_word ne digits lt⟩
    · simp only [eight, List.length_append, List.length_replicate]
      omega
    · simpa using eight_ne
    · exact (digitsValue_toUpper _ _ _).trans eight_digits

end Sys2Proof.Machine
end

section
namespace Sys2Proof.Machine

/-! ## The completion of a command word -/

theorem completeWord_legal {w : Word} {i : Instr} (legal : decode w = .ok i) (s : State) : completeWord w s = exec i s := by
  rw [completeWord, legal]

theorem completeWord_illegal {w : Word} {e : Illegal} (illegal : decode w = .error e) (s : State) :
    completeWord w s = .next (s.raiseError .illegalCmd) := by
  rw [completeWord, illegal]
  rfl

/-- Out of reset the engine's turn is the completion of the word in flight (R71, R75). -/
theorem engineTurn_completes {s : State} {w : Word} (high : s.rstN = true) (inFlight : s.pend = some w) :
    engineTurn s = completeWord w s := by
  obtain ⟨low, -⟩ | ⟨-, idle, -⟩ | ⟨w', -, inFlight', turn⟩ := engineTurn_cases s
  · exact nomatch high.symm.trans low
  · exact nomatch inFlight.symm.trans idle
  · obtain rfl : w = w' := Option.some.inj (inFlight.symm.trans inFlight')
    exact turn

theorem step_completes {s : State} {w : Word} (high : s.rstN = true) (inFlight : s.pend = some w)
    (unscheduled : s.host = []) : step s = completeWord w s :=
  (step_unscheduled s unscheduled).trans (engineTurn_completes high inFlight)

/-- Settles O6: the engine's turn, scheduled or not, is the completion of the word in flight, which is its command's. -/
theorem stepRunsDecodedCommand : Obligations.StepRunsDecodedCommand := by
  intro s w i high inFlight legal
  constructor
  · intro unscheduled
    exact (step_completes high inFlight unscheduled).trans (completeWord_legal legal s)
  · intro rest scheduled
    rw [step_scheduled s _ rest scheduled]
    exact (engineTurn_completes (s := { s with host := rest }) high inFlight).trans (completeWord_legal legal _)

/-! ## Operands and results of a command in flight -/

/-- Two states with the same command in flight on the same operands: they differ at most in DONE, OVR, the last reply and
the number of draws, which no command reads a result from. -/
def SameOperands (s t : State) : Prop :=
  ∃ dn ov r d, t = { s with done := dn, ovr := ov, reply := r, draws := d }

/-- Two states that hold the same results: they differ at most in OVR, the last reply, the number of draws, and the draw
that gives the unspecified bytes of OBUF (R148). -/
def SameResults (u t : State) : Prop :=
  ∃ ov r d g, t = { u with ovr := ov, reply := r, draws := d, obuf := { u.obuf with gen := g } }

/-- Two outcomes that are next states with the same results. -/
def SameOutcome (o p : Host.Outcome State Fault Refusal) : Prop :=
  ∃ u t, o = .next u ∧ p = .next t ∧ SameResults u t

theorem SameOperands.refl (s : State) : SameOperands s s := ⟨s.done, s.ovr, s.reply, s.draws, rfl⟩

theorem SameOperands.trans {s t u : State} (h : SameOperands s t) (h' : SameOperands t u) : SameOperands s u := by
  obtain ⟨_, _, _, _, rfl⟩ := h
  obtain ⟨dn, ov, r, d, rfl⟩ := h'
  exact ⟨dn, ov, r, d, rfl⟩

/-- Completing sets DONE, so the operands may differ in it and the results do not (R75). -/
theorem SameOperands.sameResults_finish {s t : State} (h : SameOperands s t) (c : ErrCode) :
    SameResults (s.finish c) (t.finish c) := by
  obtain ⟨dn, ov, r, d, rfl⟩ := h
  exact ⟨ov, r, d, s.obuf.gen, rfl⟩

theorem SameResults.sameOutcome {u t : State} (h : SameResults u t) : SameOutcome (.next u) (.next t) :=
  ⟨u, t, rfl, rfl, h⟩

theorem SameOperands.sameOutcome_raiseError {s t : State} (h : SameOperands s t) (c : ErrCode) :
    SameOutcome (.next (s.raiseError c)) (.next (t.raiseError c)) :=
  (h.sameResults_finish c).sameOutcome

theorem SameOperands.sameOutcome_withKey {s t a b : State} (h : SameOperands s t) (body : SameResults a b) :
    SameOutcome (withKey s a) (withKey t b) := by
  have same : t.keyValid = s.keyValid := by
    obtain ⟨_, _, _, _, rfl⟩ := h
    rfl
  cases loaded : s.keyValid with
  | true =>
    rw [withKey_loaded loaded, withKey_loaded (same.trans loaded)]
    exact body.sameOutcome
  | false =>
    rw [withKey_missing loaded, withKey_missing (same.trans loaded)]
    exact h.sameOutcome_raiseError .invalidKey

theorem SameOutcome.ite {c : Prop} [Decidable c] {o p o' p' : Host.Outcome State Fault Refusal}
    (h : SameOutcome o p) (h' : SameOutcome o' p') : SameOutcome (if c then o else o') (if c then p else p') := by
  by_cases hc : c
  · rwa [if_pos hc, if_pos hc]
  · rwa [if_neg hc, if_neg hc]

/-- A command's outcome comes from its operands alone (R76). -/
theorem SameOperands.sameOutcome_exec {s t : State} (h : SameOperands s t) (i : Instr) :
    SameOutcome (exec i s) (exec i t) := by
  have error (c : ErrCode) := h.sameOutcome_raiseError c
  have loadedBody {a b : State} (body : SameResults a b) := h.sameOutcome_withKey body
  obtain ⟨dn, ov, r, d, rfl⟩ := h
  cases i with
  | nop | keyclr | chainInit => exact SameResults.sameOutcome ⟨ov, r, d, s.obuf.gen, rfl⟩
  | keyload klen => exact (error .keySize).ite (SameResults.sameOutcome ⟨ov, r, d, s.obuf.gen, rfl⟩)
  | ecbEnc | ecbDec | cbcEncBlk | cbcDecBlk => exact loadedBody ⟨ov, r, d, s.obuf.gen, rfl⟩
  | pad => exact (error .bufferSize).ite (SameResults.sameOutcome ⟨ov, r, d + 1, d, rfl⟩)
  | encMsg => exact (error .bufferSize).ite (loadedBody ⟨ov, r, d + 1, d, rfl⟩)
  | unpad =>
    refine (error .bufferSize).ite ?_
    change SameOutcome (match unpadBytes s.input s.trimLead s.trimTrail with | .error e => _ | .ok R => _)
      (match unpadBytes s.input s.trimLead s.trimTrail with | .error e => _ | .ok R => _)
    cases unpadBytes s.input s.trimLead s.trimTrail with
    | error e => exact error e
    | ok R => exact SameResults.sameOutcome ⟨ov, r, d + 1, d, rfl⟩
  | decMsg =>
    refine (error .bufferSize).ite (loadedBody ?_)
    change SameResults
      (match unpadBytes (cbcDecrypt s.rk iv s.input).1 s.trimLead s.trimTrail with | .error e => _ | .ok R => _)
      (match unpadBytes (cbcDecrypt s.rk iv s.input).1 s.trimLead s.trimTrail with | .error e => _ | .ok R => _)
    cases unpadBytes (cbcDecrypt s.rk iv s.input).1 s.trimLead s.trimTrail with
    | error e => exact ⟨ov, r, d, s.obuf.gen, rfl⟩
    | ok R => exact ⟨ov, r, d + 1, d, rfl⟩

/-- A command word's outcome comes from its operands alone, illegal words included (R76, R128). -/
theorem SameOperands.sameOutcome_completeWord {s t : State} (h : SameOperands s t) (w : Word) :
    SameOutcome (completeWord w s) (completeWord w t) := by
  cases decoded : decode w with
  | ok i =>
    rw [completeWord_legal decoded, completeWord_legal decoded]
    exact h.sameOutcome_exec i
  | error e =>
    rw [completeWord_illegal decoded, completeWord_illegal decoded]
    exact h.sameOutcome_raiseError .illegalCmd

/-! ## What a completion writes -/

/-- No command stops the machine (R131). -/
theorem exists_exec_next (i : Instr) (s : State) : ∃ t, exec i s = .next t := by
  obtain ⟨t, -, next, -, -⟩ := (SameOperands.refl s).sameOutcome_exec i
  exact ⟨t, next⟩

section Effect
variable {s t : State} {i : Instr} (e : Effect s i t)
include e

theorem Effect.raised : t.err.raised = true := by
  cases e with
  | error _ c raised => exact raised
  | _ => rfl

/-- Every effect with a code other than OK is the error's (R77). -/
theorem Effect.precise (failed : t.err ≠ .ok) : t = s.raiseError t.err := by
  cases e with
  | error => rfl
  | _ => exact absurd rfl failed

end Effect

/-- Settles O10: the only effect with a code other than OK is `State.raiseError`. -/
theorem errorsArePrecise : Obligations.ErrorsArePrecise := by
  intro i s t h failed
  have precise := (effect_of_exec h).precise failed
  refine ⟨precise, ?_⟩
  rw [precise]
  exact ⟨rfl, rfl, rfl, rfl, rfl, rfl, rfl⟩

/-- Settles O8: a legal word completes with its command's effect, an illegal one with ILLEGAL_CMD. -/
theorem completionStep : Obligations.CompletionStep := by
  intro w s
  cases decoded : decode w with
  | ok i =>
    obtain ⟨t, next⟩ := exists_exec_next i s
    have e := effect_of_exec next
    obtain ⟨idle, done⟩ := e.ends
    obtain ⟨-, -, -, din, ibuf, msgLen, ie, trimTrail, trimLead, ovr⟩ := e.frame
    exact ⟨t, (completeWord_legal decoded s).trans next, fun j legal => Except.ok.inj legal ▸ next,
      fun _ illegal => (nomatch illegal), done, idle, busy_eq_false_iff.2 idle, e.raised, e.precise,
      ie, trimTrail, trimLead, msgLen, din, ibuf, ovr⟩
  | error e =>
    exact ⟨s.raiseError .illegalCmd, completeWord_illegal decoded s, fun _ legal => (nomatch legal), fun _ _ => rfl,
      rfl, rfl, rfl, rfl, fun _ => rfl, rfl, rfl, rfl, rfl, rfl, rfl, rfl⟩

/-! ## Transactions while a command is in flight -/

/-- A bus read leaves the operands (R54). -/
theorem hostRead_sameOperands (off : BitVec 14) (s : State) : SameOperands s (hostRead off s) := by
  obtain ⟨-, answer⟩ | ⟨-, -, -, answer⟩ | ⟨-, -, answer⟩ := busRead_cases off s <;> rw [hostRead, answer] <;>
    exact ⟨s.done, s.ovr, _, _, rfl⟩

/-- In flight a bus write leaves the operands: it is misaligned, goes to STATUS or is dropped (R46, R145). -/
theorem hostWrite_sameOperands {s : State} (busy : s.busy = true) (off : BitVec 14) (v : Word) :
    SameOperands s (hostWrite off v s) := by
  obtain ⟨-, answer⟩ | ⟨-, answer⟩ | ⟨-, -, -, answer⟩ | ⟨-, -, idle, -⟩ := busWrite_cases off v s
  case inr.inr.inr => exact nomatch idle.symm.trans busy
  all_goals rw [hostWrite, answer]; exact ⟨_, _, _, s.draws, rfl⟩

theorem hostTransaction_sameOperands {s : State} (high : s.rstN = true) (addr : Nat) {run : BitVec 14 → State}
    (runs : ∀ off, SameOperands s (run off)) : ∃ t, hostTransaction addr run s = .next t ∧ SameOperands s t := by
  obtain ⟨-, outside⟩ | ⟨off, -, -, inside⟩ | ⟨-, -, low, -⟩ := hostTransaction_cases addr run s
  · exact ⟨_, outside, s.done, s.ovr, none, s.draws, rfl⟩
  · exact ⟨_, inside, runs off⟩
  · exact nomatch low.symm.trans high

/-- A transaction leaves the command in flight and its operands. -/
theorem hostEvent_sameOperands {s : State} {e : HostEvent} (high : s.rstN = true) (busy : s.busy = true)
    (transaction : e.isTransaction = true) : ∃ t, hostEvent e s = .next t ∧ SameOperands s t := by
  cases e with
  | read addr => exact hostTransaction_sameOperands high addr fun off => hostRead_sameOperands off s
  | write addr v => exact hostTransaction_sameOperands high addr fun off => hostWrite_sameOperands busy off v
  | engine | resetAssert | resetRelease => exact nomatch transaction

section Run
variable {M : Host.Core} {s t : M.State}

theorem run_one : M.run 1 s = M.step s := by
  simp only [Host.Core.run]
  cases M.step s <;> rfl

theorem run_succ_of_next (h : M.step s = .next t) (n : Nat) : M.run (n + 1) s = M.run n t := by
  rw [Host.Core.run, h]

end Run

theorem runSteps_one (s : State) : runSteps 1 s = step s := run_one (M := core) (s := s)

theorem runSteps_succ_of_next {s t : State} (h : step s = .next t) (n : Nat) : runSteps (n + 1) s = runSteps n t :=
  run_succ_of_next (M := core) (s := s) (t := t) h n

/-- After any transactions the machine takes the engine's step with the same operands as before them. -/
theorem runSteps_transactions (events : List HostEvent) {s : State} (high : s.rstN = true) (busy : s.busy = true)
    (unscheduled : s.host = []) (transactions : ∀ e ∈ events, e.isTransaction = true) :
    ∃ t, runSteps (events.length + 1) { s with host := events } = step t ∧ SameOperands s t := by
  induction events generalizing s with
  | nil =>
    have same : { s with host := [] } = s := by rw [← unscheduled]
    exact ⟨s, same.symm ▸ runSteps_one s, .refl s⟩
  | cons e rest ih =>
    obtain ⟨first, later⟩ := List.forall_mem_cons.1 transactions
    obtain ⟨_, turn, dn, ov, r, d, rfl⟩ := hostEvent_sameOperands (s := { s with host := rest }) high busy first
    have next := (step_scheduled { s with host := e :: rest } e rest rfl).trans turn
    obtain ⟨t, run, same⟩ :=
      ih (s := { s with done := dn, ovr := ov, reply := r, draws := d }) high busy unscheduled later
    exact ⟨t, (runSteps_succ_of_next next _).trans run, .trans ⟨dn, ov, r, d, rfl⟩ same⟩

/-! ## Results and timing -/

theorem findCell_isSome {cells : List Host.Cell} {i : Nat} (h : i ∈ cells.map Prod.fst) : (findCell cells i).isSome := by
  induction cells with
  | nil => exact nomatch h
  | cons c rest ih =>
    by_cases here : c.1 = i
    · simp [findCell, here]
    · have later : i ∈ rest.map Prod.fst := (List.mem_cons.1 h).resolve_left (Ne.symm here)
      simpa [findCell, here] using ih later

/-- A byte that something has determined does not come from the buffer's draw. -/
theorem Memory.read_redrawn {m : Memory} {i : Nat} (h : i ∈ m.cells.map Prod.fst) (g : Nat) :
    Memory.read { m with gen := g } i = m.read i := by
  obtain ⟨v, found⟩ := Option.isSome_iff_exists.1 (findCell_isSome h)
  simp only [Memory.read, found]

/-- An engine's step ends with results that come from the operands alone. -/
theorem SameOperands.sameOutcome_step {s t : State} (h : SameOperands s t) (high : s.rstN = true) (busy : s.busy = true)
    (unscheduled : s.host = []) : SameOutcome (step s) (step t) := by
  obtain ⟨w, inFlight⟩ := Option.isSome_iff_exists.1 busy
  have delayed : step t = completeWord w t := by
    obtain ⟨_, _, _, _, rfl⟩ := h
    exact step_completes high inFlight unscheduled
  rw [step_completes high inFlight unscheduled, delayed]
  exact h.sameOutcome_completeWord w

/-- Settles O60: the transactions leave the operands of the command in flight, and its results come from those alone. -/
theorem resultsDoNotDependOnTiming : Obligations.ResultsDoNotDependOnTiming := by
  intro s t u events high busy unscheduled transactions later immediate
  obtain ⟨s', run, same⟩ := runSteps_transactions events high busy unscheduled transactions
  obtain ⟨u', t', now, delayed, ov, r, d, g, rfl⟩ := same.sameOutcome_step high busy unscheduled
  obtain rfl : u' = u := Host.Outcome.next.inj (now.symm.trans immediate)
  obtain rfl := Host.Outcome.next.inj ((delayed.symm.trans run.symm).trans later)
  exact ⟨rfl, rfl, fun i determined => Memory.read_redrawn determined g⟩

end Sys2Proof.Machine
end

section
namespace Sys2Proof.Machine

/-! ## Bytes of a 16-byte register -/

/-- Byte `4k + r` of a block is byte `r` of its word `k` (R41, R48). -/
theorem getElem?_blockBytesOf (x : Block) (k r : Fin 4) :
    (blockBytesOf x)[4 * k.val + r.val]? = (columnBytes (blockColumn x k))[r.val]? := by
  fin_cases k <;> fin_cases r <;> rfl

/-- Byte `r` of a bus word, lowest byte first (R48). -/
theorem getElem?_columnBytes_unpackWord (v : Word) (r : Fin 4) :
    (columnBytes (unpackWord v))[r.val]? = some (v.extractLsb' (8 * r) 8) := by
  fin_cases r <;> rfl

/-- A write of word `j` stores the word's bytes at `4j` to `4j+3` and leaves the other bytes (R48, R73). -/
theorem getElem?_setBlockColumn_unpackWord (x : Block) (j : Fin 4) (v : Word) {i : Nat} (h : i < 16) :
    (blockBytesOf (setBlockColumn x j (unpackWord v)))[i]? =
      if 4 * j.val ≤ i ∧ i < 4 * j.val + 4 then some (v.extractLsb' (8 * (i - 4 * j.val)) 8)
      else (blockBytesOf x)[i]? := by
  obtain ⟨k, r, rfl⟩ : ∃ k r : Fin 4, i = 4 * k.val + r.val :=
    ⟨⟨i / 4, by omega⟩, ⟨i % 4, by omega⟩, (Nat.div_add_mod i 4).symm⟩
  rw [getElem?_blockBytesOf, getElem?_blockBytesOf, blockColumn_setBlockColumn]
  by_cases same : k = j
  · subst same
    rw [if_pos rfl, if_pos (by omega), getElem?_columnBytes_unpackWord, Nat.add_sub_cancel_left]
  · rw [if_neg same, if_neg (by omega)]

/-! ## Operand writes -/

/-- CTRL's word is the low three bits that were written (R36). -/
theorem ctrlWord_writeCtrl (s : State) (v : Word) : (s.writeCtrl v).ctrlWord = v &&& 0x00000007#32 := by
  have bits : (0x00000007#32 : Word) = BitVec.twoPow 32 0 ||| BitVec.twoPow 32 1 ||| BitVec.twoPow 32 2 := by decide
  rw [ctrlWord_eq_or, bits, BitVec.and_or_distrib_left, BitVec.and_or_distrib_left, BitVec.and_twoPow, BitVec.and_twoPow,
    BitVec.and_twoPow]
  rfl

theorem setWidth_extractLsb'_low_half (v : Word) : (v.extractLsb' 0 16).setWidth 32 = v &&& 0x0000FFFF#32 := by
  have low : v.toNat &&& 65535 = v.toNat % 65536 := Nat.and_two_pow_sub_one_eq_mod v.toNat 16
  apply BitVec.eq_of_toNat_eq
  simp only [BitVec.toNat_setWidth, BitVec.extractLsb'_toNat, BitVec.toNat_and, BitVec.toNat_ofNat, Nat.shiftRight_zero,
    Nat.reducePow, Nat.reduceMod, low]
  omega

section Idle
variable {s : State} (idle : s.pend = none)
include idle

/-- An idle write to word `j` of a 16-byte register stores into that register's slot (R48, R73). -/
theorem busWrite_word {start : Nat} {sl : Slot} {j : Fin 4} (aligned : start % 4 = 0) (above : 0x020 ≤ start)
    (below : start < 0x070) (slot : selectSlot s.bufBytes (BitVec.ofNat 14 (start + 4 * j)) = sl) (v : Word) :
    busWrite (BitVec.ofNat 14 (start + 4 * j)) v s = (.okay, writeSlot s sl v) := by
  have notStatus : (BitVec.ofNat 14 (start + 4 * j)).toNat ≠ offStatus := by
    rw [BitVec.toNat_ofNat, offStatus]
    omega
  rw [busWrite_idle (busy_eq_false_iff.2 idle) (aligned_ofNat aligned j) notStatus, slot]

/-- Word `j` of DIN reads back (R28). -/
theorem busRead_din_written (j : Fin 4) (v : Word) : (busRead (BitVec.ofNat 14 (0x050 + 4 * j))
    { s with din := setBlockColumn s.din j (unpackWord v) }).2.1 = v := by
  obtain ⟨-, -, slot, -⟩ := selectSlot_word s.bufBytes j
  rw [busRead_idle (s := { s with din := setBlockColumn s.din j (unpackWord v) }) idle (aligned_ofNat rfl j), slot]
  change packWord (blockColumn (setBlockColumn s.din j (unpackWord v)) j) = v
  rw [blockColumn_setBlockColumn, if_pos rfl, packWord_unpackWord]

end Idle

/-- Settles O49: each write stores into the slot its offset selects, and the slot's value is what was stored. -/
theorem operandWrites : Obligations.OperandWrites := by
  intro s v idle
  have stores {off : BitVec 14} (aligned : off.toNat % 4 = 0) (notStatus : off.toNat ≠ offStatus) :=
    busWrite_idle (busy_eq_false_iff.2 idle) aligned notStatus v
  have msgLen := stores (off := 0x014#14) rfl (by decide)
  have ctrl := stores (off := 0x008#14) rfl (by decide)
  refine ⟨msgLen, ?msgLenReads, ctrl, ?ctrlReads, fun j hj => ?registers⟩
  case msgLenReads =>
    rw [msgLen, busRead_of_not_volatile rfl rfl]
    exact setWidth_extractLsb'_low_half v
  case ctrlReads =>
    rw [ctrl, busRead_of_not_volatile rfl rfl]
    exact ctrlWord_writeCtrl s v
  case registers =>
    let word : Fin 4 := ⟨j, hj⟩
    obtain ⟨keyin, -, din, -⟩ := selectSlot_word s.bufBytes word
    exact ⟨⟨_, busWrite_word idle rfl (by decide) (by decide) keyin v,
        fun i => getElem?_setBlockColumn_unpackWord s.keyin word v,
        congrArg (fun answer => answer.2.1) (busRead_keyin _ word)⟩,
      ⟨_, busWrite_word idle rfl (by decide) (by decide) din v,
        fun i => getElem?_setBlockColumn_unpackWord s.din word v, busRead_din_written idle word v⟩⟩

/-! ## The CMD write -/

/-- BUSY is bit 0 of STATUS (R37). -/
theorem statusWord_busy (s : State) : s.statusWord.getLsbD 0 = s.busy := by
  have fields : ∀ (busy done key ovr : Bool) (code : BitVec 4), (BitVec.ofNat 32
      (bitNat busy + 2 * bitNat done + 4 * bitNat key + 8 * bitNat ovr + 256 * code.toNat)).getLsbD 0 = busy := by decide
  exact fields _ _ _ _ _

/-- An idle CMD write launches its word, legal or not (R74). -/
theorem busWrite_cmd {s : State} (idle : s.pend = none) (v : Word) : busWrite 0x010#14 v s = (.okay, s.launch v) :=
  busWrite_idle (busy_eq_false_iff.2 idle) rfl (by decide) v

/-- Settles O40: the state it leaves is `State.launch`, which has a command in flight. -/
theorem cmdWriteLaunches : Obligations.CmdWriteLaunches := by
  intro s v idle
  refine ⟨s.launch v, busWrite_cmd idle v, rfl, ?_⟩
  rw [busRead_of_not_volatile rfl rfl]
  exact statusWord_busy _

/-! ## NOP -/

/-- OP is the low four bits of a word (R61). -/
theorem opField_eq_zero_iff (w : Word) : opField w = 0 ↔ w &&& 0xF#32 = 0#32 := by
  have low : w.toNat &&& 15 = w.toNat % 16 := Nat.and_two_pow_sub_one_eq_mod w.toNat 4
  rw [(fields_eq_digits w).1, BitVec.toNat_eq, BitVec.toNat_and, ← low]
  rfl

/-- NOP's word is the only legal one with OP = 0 (R64, R80). -/
theorem decode_error_of_opcode_zero {w : Word} (op : opField w = 0) (ne : w ≠ 0#32) : ∃ e, decode w = .error e := by
  have value := toNat_eq_fields w
  have nonzero : w.toNat ≠ 0 := fun zero => ne (BitVec.eq_of_toNat_eq zero)
  rw [exists_decode_error_iff]
  omega

/-- Settles O12: NOP's completion is `State.complete`; the example is run step by step. -/
theorem nopCompletes : Obligations.NopCompletes := by
  refine ⟨rfl, fun s => rfl, fun w op ne => decode_error_of_opcode_zero ?_ ne, ?_⟩
  · exact (opField_eq_zero_iff w).2 op
  · exact ⟨_, rfl, rfl, rfl⟩

end Sys2Proof.Machine
end

section
namespace Sys2Proof.Machine

/-! ## Field multiplication (R83, R84) -/

/-- Multiplication by `x` is linear over XOR (R83). -/
theorem xtime_xor (a b : Byte) : xtime (a ^^^ b) = xtime a ^^^ xtime b := by
  simp only [xtime, BitVec.getLsbD_xor, BitVec.shiftLeft_xor_distrib]
  cases a.getLsbD 7 <;> cases b.getLsbD 7 <;> grind

/-- One turn of the loop of `gmul`, on its two variables `p` and `a` (R84). -/
def gmulStep (b : Byte) (v : Byte × Byte) (i : Nat) : Byte × Byte :=
  (if b.getLsbD i then v.1 ^^^ v.2 else v.1, xtime v.2)

/-- `gmul` is its loop run over the eight bits of the multiplier (R84). -/
theorem gmul_eq_foldl (a b : Byte) : gmul a b = ((List.range 8).foldl (gmulStep b) (0x00#8, a)).1 := rfl

theorem xor_xor_xor_comm (a b c d : Byte) : a ^^^ b ^^^ (c ^^^ d) = a ^^^ c ^^^ (b ^^^ d) := by ac_rfl

theorem gmulStep_xor_left (b p q a c : Byte) (i : Nat) :
    gmulStep b (p ^^^ q, a ^^^ c) i =
      ((gmulStep b (p, a) i).1 ^^^ (gmulStep b (q, c) i).1, xtime a ^^^ xtime c) := by
  simp only [gmulStep, xtime_xor]
  split
  · rw [xor_xor_xor_comm]
  · rfl

theorem gmulStep_xor_right (b c p q a : Byte) (i : Nat) :
    gmulStep (b ^^^ c) (p ^^^ q, a) i = ((gmulStep b (p, a) i).1 ^^^ (gmulStep c (q, a) i).1, xtime a) := by
  have left : p ^^^ q ^^^ a = p ^^^ a ^^^ q := by ac_rfl
  have right : p ^^^ q ^^^ a = p ^^^ (q ^^^ a) := by ac_rfl
  have both : p ^^^ a ^^^ (q ^^^ a) = p ^^^ q := by rw [xor_xor_xor_comm, BitVec.xor_self, BitVec.xor_zero]
  simp only [gmulStep, BitVec.getLsbD_xor]
  cases b.getLsbD i <;> cases c.getLsbD i
  · rfl
  · exact congrArg (·, xtime a) right
  · exact congrArg (·, xtime a) left
  · exact congrArg (·, xtime a) both.symm

/-- The loop is linear in the multiplicand and what `p` starts from. -/
theorem foldl_gmulStep_xor_left (b : Byte) (is : List Nat) (p q a c : Byte) :
    (is.foldl (gmulStep b) (p ^^^ q, a ^^^ c)).1 =
      (is.foldl (gmulStep b) (p, a)).1 ^^^ (is.foldl (gmulStep b) (q, c)).1 := by
  induction is generalizing p q a c with
  | nil => rfl
  | cons i is ih =>
    rw [List.foldl_cons, gmulStep_xor_left]
    exact ih _ _ _ _

/-- The loop is linear in the multiplier. -/
theorem foldl_gmulStep_xor_right (b c : Byte) (is : List Nat) (p q a : Byte) :
    (is.foldl (gmulStep (b ^^^ c)) (p ^^^ q, a)).1 =
      (is.foldl (gmulStep b) (p, a)).1 ^^^ (is.foldl (gmulStep c) (q, a)).1 := by
  induction is generalizing p q a with
  | nil => rfl
  | cons i is ih =>
    rw [List.foldl_cons, gmulStep_xor_right]
    exact ih _ _ _

/-- The loop commutes with a multiplication by `x` of both its variables. -/
theorem foldl_gmulStep_xtime (b : Byte) (is : List Nat) (p a : Byte) :
    (is.foldl (gmulStep b) (xtime p, xtime a)).1 = xtime (is.foldl (gmulStep b) (p, a)).1 := by
  induction is generalizing p a with
  | nil => rfl
  | cons i is ih =>
    simp only [List.foldl_cons, gmulStep, ← ih]
    split <;> simp only [xtime_xor]

/-- What the loop leaves in `p` is made of its two variables by `xtime` and XOR. -/
theorem foldl_gmulStep_induction {P : Byte → Prop} (xtime_mem : ∀ a, P a → P (xtime a))
    (xor_mem : ∀ a b, P a → P b → P (a ^^^ b)) (b : Byte) (is : List Nat) (p a : Byte) (hp : P p) (ha : P a) :
    P (is.foldl (gmulStep b) (p, a)).1 := by
  induction is generalizing p a with
  | nil => exact hp
  | cons i is ih =>
    refine ih _ _ ?_ (xtime_mem a ha)
    dsimp only
    split
    · exact xor_mem p a hp ha
    · exact hp

theorem gmul_xor_left (a b c : Byte) : gmul (a ^^^ b) c = gmul a c ^^^ gmul b c :=
  foldl_gmulStep_xor_left c (List.range 8) 0x00#8 0x00#8 a b

theorem gmul_xor_right (a b c : Byte) : gmul a (b ^^^ c) = gmul a b ^^^ gmul a c :=
  foldl_gmulStep_xor_right b c (List.range 8) 0x00#8 0x00#8 a

theorem gmul_xtime_left (a b : Byte) : gmul (xtime a) b = xtime (gmul a b) :=
  foldl_gmulStep_xtime b (List.range 8) 0x00#8 a

@[simp] theorem gmul_zero_left (a : Byte) : gmul 0x00#8 a = 0x00#8 := by
  simpa using gmul_xor_left 0x00#8 0x00#8 a

@[simp] theorem gmul_one_left : ∀ a, gmul 0x01#8 a = a := by decide +kernel

/-- Every byte comes from 0x01 by `xtime` and XOR. -/
theorem byte_induction {P : Byte → Prop} (one : P 0x01#8) (xtime_mem : ∀ a, P a → P (xtime a))
    (xor_mem : ∀ a b, P a → P b → P (a ^^^ b)) (a : Byte) : P a := by
  have zero : P 0x00#8 := xor_mem _ _ one one
  have product : P (gmul 0x01#8 a) := by
    rw [gmul_eq_foldl]
    exact foldl_gmulStep_induction xtime_mem xor_mem a (List.range 8) _ _ zero one
  rwa [gmul_one_left] at product

theorem gmul_xtime_right (a b : Byte) : gmul a (xtime b) = xtime (gmul a b) := by
  induction a using byte_induction with
  | one => simp only [gmul_one_left]
  | xtime_mem a ih => rw [gmul_xtime_left, gmul_xtime_left, ih]
  | xor_mem a c iha ihc => rw [gmul_xor_left, gmul_xor_left, xtime_xor, iha, ihc]

@[simp] theorem gmul_one_right (a : Byte) : gmul a 0x01#8 = a := by
  induction a using byte_induction with
  | one => exact gmul_one_left _
  | xtime_mem a ih => rw [gmul_xtime_left, ih]
  | xor_mem a b iha ihb => rw [gmul_xor_left, iha, ihb]

theorem gmul_comm (a b : Byte) : gmul a b = gmul b a := by
  induction b using byte_induction with
  | one => rw [gmul_one_left, gmul_one_right]
  | xtime_mem b ih => rw [gmul_xtime_left, gmul_xtime_right, ih]
  | xor_mem b c ihb ihc => rw [gmul_xor_left, gmul_xor_right, ihb, ihc]

theorem gmul_assoc (a b c : Byte) : gmul (gmul a b) c = gmul a (gmul b c) := by
  induction c using byte_induction with
  | one => simp only [gmul_one_right]
  | xtime_mem c ih => simp only [gmul_xtime_right, ih]
  | xor_mem c d ihc ihd => simp only [gmul_xor_right, ihc, ihd]

/-! ## Inverses in the field, and the S-box (R84-R87) -/

/-- The affine map of R85: bit `i` takes in bits `i`, `i+4`, `i+5`, `i+6` and `i+7` of `b`, and the bit of 0x63. -/
def affineMap (b : Byte) : Byte :=
  b ^^^ b.rotateLeft 4 ^^^ b.rotateLeft 3 ^^^ b.rotateLeft 2 ^^^ b.rotateLeft 1 ^^^ 0x63#8

/-- The inverse of the affine map of R85. -/
def affineUnmap (v : Byte) : Byte := v.rotateLeft 1 ^^^ v.rotateLeft 3 ^^^ v.rotateLeft 6 ^^^ 0x05#8

/-- The inverse of a nonzero byte, and 0 of 0: the S-box with its affine map undone (R85). -/
def fieldInverse (a : Byte) : Byte := affineUnmap (sbox a)

theorem getLsbD_affineMap (b : Byte) {i : Nat} (h : i < 8) :
    (affineMap b).getLsbD i =
      (b.getLsbD i ^^ b.getLsbD ((i + 4) % 8) ^^ b.getLsbD ((i + 5) % 8) ^^ b.getLsbD ((i + 6) % 8) ^^
        b.getLsbD ((i + 7) % 8) ^^ (0x63#8).getLsbD i) := by
  interval_cases i <;> simp [affineMap]

theorem affineMap_affineUnmap : ∀ v, affineMap (affineUnmap v) = v := by decide +kernel

theorem sbox_eq_affineMap (a : Byte) : sbox a = affineMap (fieldInverse a) := (affineMap_affineUnmap _).symm

theorem gmul_fieldInverse : ∀ a, a ≠ 0#8 → gmul a (fieldInverse a) = 0x01#8 := by decide +kernel

@[simp] theorem fieldInverse_zero : fieldInverse 0#8 = 0#8 := by decide

@[simp] theorem invSbox_sbox : ∀ a, invSbox (sbox a) = a := by decide +kernel

/-- On the finitely many bytes the left inverse of SBOX is its right inverse. -/
@[simp] theorem sbox_invSbox (a : Byte) : sbox (invSbox a) = a := by
  have injective : Function.Injective sbox := Function.LeftInverse.injective invSbox_sbox
  obtain ⟨b, rfl⟩ := (Finite.injective_iff_surjective.1 injective) a
  rw [invSbox_sbox]

/-- The inverse is unique: `c = (a⁻¹ • a) • c = a⁻¹ • (a • c)`. -/
theorem eq_of_gmul_eq_one {a b c : Byte} (hb : gmul a b = 0x01#8) (hc : gmul a c = 0x01#8) : c = b :=
  calc c = gmul (gmul b a) c := by rw [gmul_comm b a, hb, gmul_one_left]
    _ = b := by rw [gmul_assoc, hc, gmul_one_right]

/-- `b` is the inverse of `a` in the sense of R85. -/
theorem eq_fieldInverse {a b : Byte} (h : (a = 0#8 ∧ b = 0#8) ∨ gmul a b = 0x01#8) : b = fieldInverse a := by
  obtain ⟨rfl, rfl⟩ | product := h
  · exact fieldInverse_zero.symm
  · have nonzero : a ≠ 0#8 := by
      rintro rfl
      simp at product
    exact eq_of_gmul_eq_one (gmul_fieldInverse a nonzero) product

/-- Settles O15: `•` is bilinear over XOR and commutes with `xtime` on both sides, so every law follows by
`byte_induction` from its case at 0x01. -/
theorem fieldMultiplicationLaws : Obligations.FieldMultiplicationLaws := by
  refine ⟨gmul_comm, gmul_assoc, gmul_xor_right, gmul_one_left, fun a nonzero => ?_, by decide, by decide⟩
  have inverse := gmul_fieldInverse a nonzero
  exact ⟨fieldInverse a, inverse, fun c => eq_of_gmul_eq_one inverse⟩

/-- Settles O16: `b` is the `fieldInverse` of `a`, whose affine map is the S-box's entry. -/
theorem sboxIsAffineOfInverse : Obligations.SboxIsAffineOfInverse := by
  refine ⟨fun a b inverse i h => ?_, invSbox_sbox, sbox_invSbox⟩
  rw [eq_fieldInverse inverse, sbox_eq_affineMap, getLsbD_affineMap _ h]

end Sys2Proof.Machine
end

section
namespace Sys2Proof.Machine

/-! ## SubBytes and ShiftRows (R88, R89) -/

@[simp] theorem invSubBytes_subBytes (s : Block) : invSubBytes (subBytes s) = s := by
  simp [invSubBytes, subBytes, mapColumn]

@[simp] theorem subBytes_invSubBytes (s : Block) : subBytes (invSubBytes s) = s := by
  simp [invSubBytes, subBytes, mapColumn]

@[simp] theorem invShiftRows_shiftRows (s : Block) : invShiftRows (shiftRows s) = s := rfl

@[simp] theorem shiftRows_invShiftRows (s : Block) : shiftRows (invShiftRows s) = s := rfl

/-! ## MixColumns (R90, R91) -/

/-- A column times the circulant matrix whose first row is `k`; each later row is the row above it, one place to the
right. -/
def circulant (k a : Column) : Column :=
  ⟨gmul k.b0 a.b0 ^^^ gmul k.b1 a.b1 ^^^ gmul k.b2 a.b2 ^^^ gmul k.b3 a.b3,
   gmul k.b3 a.b0 ^^^ gmul k.b0 a.b1 ^^^ gmul k.b1 a.b2 ^^^ gmul k.b2 a.b3,
   gmul k.b2 a.b0 ^^^ gmul k.b3 a.b1 ^^^ gmul k.b0 a.b2 ^^^ gmul k.b1 a.b3,
   gmul k.b1 a.b0 ^^^ gmul k.b2 a.b1 ^^^ gmul k.b3 a.b2 ^^^ gmul k.b0 a.b3⟩

/-- The first row of the product of two circulant matrices. -/
def circulantRow (k l : Column) : Column :=
  ⟨gmul k.b0 l.b0 ^^^ gmul k.b1 l.b3 ^^^ gmul k.b2 l.b2 ^^^ gmul k.b3 l.b1,
   gmul k.b0 l.b1 ^^^ gmul k.b1 l.b0 ^^^ gmul k.b2 l.b3 ^^^ gmul k.b3 l.b2,
   gmul k.b0 l.b2 ^^^ gmul k.b1 l.b1 ^^^ gmul k.b2 l.b0 ^^^ gmul k.b3 l.b3,
   gmul k.b0 l.b3 ^^^ gmul k.b1 l.b2 ^^^ gmul k.b2 l.b1 ^^^ gmul k.b3 l.b0⟩

/-- The product of two circulant matrices is circulant, by the ring laws of the field. -/
theorem circulant_circulant (k l a : Column) : circulant k (circulant l a) = circulant (circulantRow k l) a := by
  simp only [circulant, circulantRow, gmul_xor_right, gmul_xor_left, gmul_assoc, Column.mk.injEq]
  refine ⟨?_, ?_, ?_, ?_⟩ <;> ac_rfl

theorem circulant_identity (a : Column) : circulant ⟨0x01#8, 0x00#8, 0x00#8, 0x00#8⟩ a = a := by simp [circulant]

theorem mixColumn_eq_circulant (a : Column) : mixColumn a = circulant ⟨0x02#8, 0x03#8, 0x01#8, 0x01#8⟩ a := by
  simp [mixColumn, circulant]

theorem invMixColumn_eq_circulant (a : Column) : invMixColumn a = circulant ⟨0x0E#8, 0x0B#8, 0x0D#8, 0x09#8⟩ a := rfl

@[simp] theorem invMixColumn_mixColumn (a : Column) : invMixColumn (mixColumn a) = a := by
  have product : circulantRow ⟨0x0E#8, 0x0B#8, 0x0D#8, 0x09#8⟩ ⟨0x02#8, 0x03#8, 0x01#8, 0x01#8⟩ =
      ⟨0x01#8, 0x00#8, 0x00#8, 0x00#8⟩ := by decide +kernel
  rw [mixColumn_eq_circulant, invMixColumn_eq_circulant, circulant_circulant, product, circulant_identity]

@[simp] theorem mixColumn_invMixColumn (a : Column) : mixColumn (invMixColumn a) = a := by
  have product : circulantRow ⟨0x02#8, 0x03#8, 0x01#8, 0x01#8⟩ ⟨0x0E#8, 0x0B#8, 0x0D#8, 0x09#8⟩ =
      ⟨0x01#8, 0x00#8, 0x00#8, 0x00#8⟩ := by decide +kernel
  rw [mixColumn_eq_circulant, invMixColumn_eq_circulant, circulant_circulant, product, circulant_identity]

@[simp] theorem invMixColumns_mixColumns (s : Block) : invMixColumns (mixColumns s) = s := by
  simp [invMixColumns, mixColumns]

@[simp] theorem mixColumns_invMixColumns (s : Block) : mixColumns (invMixColumns s) = s := by
  simp [invMixColumns, mixColumns]

@[simp] theorem addRoundKey_addRoundKey (s k : Block) : addRoundKey (addRoundKey s k) k = s := xorBlock_cancel s k

/-- Settles O17: byte by byte for SubBytes, and for MixColumns the product of the two circulant matrices. -/
theorem roundTransformationsInvert : Obligations.RoundTransformationsInvert :=
  ⟨invSubBytes_subBytes, invShiftRows_shiftRows, invMixColumns_mixColumns, mixColumns_invMixColumns,
    addRoundKey_addRoundKey⟩

/-! ## Cipher and inverse cipher (R96-R98) -/

/-- Where each round `g` undoes the round `f` with the same key, seen through `σ`, the rounds `g` in the reverse order
undo all the rounds `f`. -/
theorem foldl_reverse_undoes {α β : Type} {f g : α → β → α} {σ : α → α}
    (undo : ∀ s k, g (σ (f s k)) k = σ s) (ks : List β) (s : α) : ks.reverse.foldl g (σ (ks.foldl f s)) = σ s := by
  induction ks generalizing s with
  | nil => rfl
  | cons k ks ih =>
    calc (k :: ks).reverse.foldl g (σ ((k :: ks).foldl f s))
        = g (ks.reverse.foldl g (σ (ks.foldl f (f s k)))) k := by simp
      _ = σ s := by rw [ih, undo]

/-- What the next round of the cipher does to a state before MixColumns. -/
def substituteShift (s : Block) : Block := shiftRows (subBytes s)

/-- What the next round of the inverse cipher does to a state before AddRoundKey. -/
def unshiftUnsubstitute (s : Block) : Block := invSubBytes (invShiftRows s)

theorem unshiftUnsubstitute_substituteShift (s : Block) : unshiftUnsubstitute (substituteShift s) = s := by
  simp [unshiftUnsubstitute, substituteShift]

theorem substituteShift_unshiftUnsubstitute (s : Block) : substituteShift (unshiftUnsubstitute s) = s := by
  simp [unshiftUnsubstitute, substituteShift]

theorem decRound_substituteShift_encRound (s k : Block) :
    decRound (substituteShift (encRound s k)) k = substituteShift s := by
  simp [decRound, substituteShift, encRound]

theorem encRound_unshiftUnsubstitute_decRound (s k : Block) :
    encRound (unshiftUnsubstitute (decRound s k)) k = unshiftUnsubstitute s := by
  simp [decRound, unshiftUnsubstitute, encRound]

theorem cipher_eq (rk : RoundKeys) (B : Block) :
    cipher rk B = addRoundKey (substituteShift ((innerKeys rk).foldl encRound (addRoundKey B rk.k0))) rk.k10 := rfl

theorem invCipher_eq (rk : RoundKeys) (C : Block) :
    invCipher rk C =
      addRoundKey (unshiftUnsubstitute ((innerKeys rk).reverse.foldl decRound (addRoundKey C rk.k10))) rk.k0 := rfl

/-- The inverse cipher undoes the cipher, whatever the round keys (R98). -/
theorem invCipher_cipher (rk : RoundKeys) (B : Block) : invCipher rk (cipher rk B) = B := by
  rw [cipher_eq, invCipher_eq, addRoundKey_addRoundKey, foldl_reverse_undoes decRound_substituteShift_encRound,
    unshiftUnsubstitute_substituteShift, addRoundKey_addRoundKey]

/-- The cipher undoes the inverse cipher, whatever the round keys (R98). -/
theorem cipher_invCipher (rk : RoundKeys) (C : Block) : cipher rk (invCipher rk C) = C := by
  have rounds := foldl_reverse_undoes encRound_unshiftUnsubstitute_decRound (innerKeys rk).reverse (addRoundKey C rk.k10)
  rw [List.reverse_reverse] at rounds
  rw [invCipher_eq, cipher_eq, addRoundKey_addRoundKey, rounds, substituteShift_unshiftUnsubstitute,
    addRoundKey_addRoundKey]

/-- Settles O19: two functions that undo each other are bijections. -/
theorem cipherAndInverseCipher : Obligations.CipherAndInverseCipher := by
  intro K
  have left : Function.LeftInverse (invCipher (keyExpansion K)) (cipher (keyExpansion K)) := invCipher_cipher _
  have right : Function.RightInverse (invCipher (keyExpansion K)) (cipher (keyExpansion K)) := cipher_invCipher _
  exact ⟨fun B => ⟨left B, right B⟩, fun _ _ same => left.injective same, right.surjective⟩

end Sys2Proof.Machine
end

section
namespace Sys2Proof.Machine

/-! ## Key expansion (R95) -/

/-- `RK[r]`, for every `r`. -/
def roundKey (K : Block) (r : Nat) : Block :=
  match r with
  | 0 => K
  | k + 1 => nextRoundKey (k + 1) (roundKey K k)

/-- The word `w[i]` of R95: word `i mod 4` of round key `i div 4`. -/
def keyWord (K : Block) (i : Nat) : Column := blockColumn (roundKey K (i / 4)) ⟨i % 4, Nat.mod_lt i (by decide)⟩

theorem keyExpansion_eq_roundKeys (K : Block) :
    (keyExpansion K).k0 :: innerKeys (keyExpansion K) ++ [(keyExpansion K).k10] = (List.range 11).map (roundKey K) := rfl

theorem keyWord_word (K : Block) (r : Nat) {j : Nat} (h : j < 4) :
    keyWord K (4 * r + j) = blockColumn (roundKey K r) ⟨j, h⟩ := by
  have quotient : (4 * r + j) / 4 = r := by omega
  have remainder : (4 * r + j) % 4 = j := by omega
  simp only [keyWord, quotient, remainder]

theorem roundKey_eq_keyWords (K : Block) (r : Nat) :
    roundKey K r = ⟨keyWord K (4 * r), keyWord K (4 * r + 1), keyWord K (4 * r + 2), keyWord K (4 * r + 3)⟩ := by
  have first : keyWord K (4 * r) = blockColumn (roundKey K r) 0 := keyWord_word K r (j := 0) (by decide)
  rw [first, keyWord_word K r (by decide), keyWord_word K r (by decide), keyWord_word K r (by decide)]
  rfl

/-- The first word of a round key takes in the last one of the round key before, rotated, substituted and with Rcon. -/
theorem keyWord_first (K : Block) (r : Nat) :
    keyWord K (4 * (r + 1) + 0) =
      xorColumn (keyWord K (4 * r + 0)) (xorColumn (subWord (rotWord (keyWord K (4 * r + 3)))) (rcon (r + 1))) := by
  rw [keyWord_word K _ (by decide), keyWord_word K _ (by decide), keyWord_word K _ (by decide)]
  rfl

/-- Each later word of a round key takes in the word before it. -/
theorem keyWord_later (K : Block) (r : Nat) {j : Nat} (h : j + 1 < 4) :
    keyWord K (4 * (r + 1) + (j + 1)) = xorColumn (keyWord K (4 * r + (j + 1))) (keyWord K (4 * (r + 1) + j)) := by
  rw [keyWord_word K _ h, keyWord_word K _ h, keyWord_word K _ (by omega)]
  have bound : j < 3 := by omega
  interval_cases j <;> rfl

theorem keyWord_recurrence (K : Block) {i : Nat} (h : 4 ≤ i) :
    keyWord K i = xorColumn (keyWord K (i - 4))
      (if i % 4 = 0 then xorColumn (subWord (rotWord (keyWord K (i - 1)))) (rcon (i / 4)) else keyWord K (i - 1)) := by
  obtain ⟨r, j, lt, rfl⟩ : ∃ r j, j < 4 ∧ i = 4 * (r + 1) + j :=
    ⟨i / 4 - 1, i % 4, Nat.mod_lt i (by decide), by omega⟩
  have four : 4 * (r + 1) + j - 4 = 4 * r + j := by omega
  cases j with
  | zero =>
    have one : 4 * (r + 1) + 0 - 1 = 4 * r + 3 := by omega
    have quotient : (4 * (r + 1) + 0) / 4 = r + 1 := by omega
    rw [if_pos (by omega), four, one, quotient, keyWord_first]
  | succ j =>
    have one : 4 * (r + 1) + (j + 1) - 1 = 4 * (r + 1) + j := by omega
    rw [if_neg (by omega), four, one, keyWord_later K r lt]

/-- The words `w[0]` to `w[43]` of R95. -/
def keyWords (K : Block) : List Column := (List.range 44).map (keyWord K)

theorem getD_keyWords (K : Block) {i : Nat} (h : i < 44) : (keyWords K).getD i zeroColumn = keyWord K i := by
  simp [keyWords, h]

/-- Settles O18: the words are the columns of the round keys in a row, and `nextRoundKey` is the recurrence. -/
theorem keyExpansionRecurrence : Obligations.KeyExpansionRecurrence := by
  intro K
  refine ⟨keyWords K, by simp [keyWords], rfl, fun i low high => ?_, ?_⟩
  · rw [getD_keyWords K high, getD_keyWords K (by omega), getD_keyWords K (by omega)]
    exact keyWord_recurrence K low
  · refine (keyExpansion_eq_roundKeys K).trans (List.map_congr_left fun r mem => ?_)
    have bound : r < 11 := List.mem_range.1 mem
    rw [getD_keyWords K (by omega), getD_keyWords K (by omega), getD_keyWords K (by omega), getD_keyWords K (by omega),
      roundKey_eq_keyWords]

/-! ## ECB.ENC and ECB.DEC (R99, R100) -/

/-- Settles O20: the cipher is evaluated on the two examples; the inverse cipher's example follows from R98. -/
theorem aesExamples : Obligations.AesExamples := by
  have counting : cipher (keyExpansion (hexBlock 0x000102030405060708090a0b0c0d0e0f#128))
      (hexBlock 0x00112233445566778899aabbccddeeff#128) = hexBlock 0x69c4e0d86a7b0430d8cdb78070b4c55a#128 := by
    decide +kernel
  refine ⟨counting, ?_, by decide +kernel⟩
  rw [← counting, invCipher_cipher]

/-- ECB.ENC completes with the cipher of DIN in DOUT where a key is loaded (R99). -/
theorem exec_ecbEnc_loaded {s : State} (key : s.keyValid = true) :
    exec .ecbEnc s = .next { s with dout := cipher s.rk s.din }.complete := withKey_loaded key _

/-- ECB.DEC completes with the inverse cipher of DIN in DOUT where a key is loaded (R100). -/
theorem exec_ecbDec_loaded {s : State} (key : s.keyValid = true) :
    exec .ecbDec s = .next { s with dout := invCipher s.rk s.din }.complete := withKey_loaded key _

/-- Settles O21: the two outcomes of `withKey`. -/
theorem ecbEncCommand : Obligations.EcbEncCommand :=
  ⟨by decide, fun _ => ⟨exec_ecbEnc_loaded, fun missing => withKey_missing missing _⟩⟩

/-- Settles O22: the two outcomes of `withKey`; the round trip is the inverse cipher undoing the cipher. -/
theorem ecbDecCommand : Obligations.EcbDecCommand := by
  refine ⟨by decide, fun _ => ⟨exec_ecbDec_loaded, fun missing => withKey_missing missing _⟩, fun s _ key => ?_⟩
  exact ⟨_, _, exec_ecbEnc_loaded key, exec_ecbDec_loaded key, rfl, invCipher_cipher s.rk s.din⟩

end Sys2Proof.Machine
end

section
namespace Sys2Proof.Machine

/-! ## The derived key and KEYLOAD (R101, R102) -/

/-- Byte `i` of the key derived from a passphrase: the passphrase's, or zero past its end (R101). -/
theorem getElem?_deriveKey {P : Bytes} (fits : P.length ≤ 16) {i : Nat} (h : i < 16) :
    (blockBytesOf (deriveKey P))[i]? = some (P.getD i 0#8) := by
  have length : (P ++ zeros (16 - P.length)).length = 16 := by
    rw [List.length_append, length_zeros]
    omega
  rw [deriveKey, blockBytesOf_blockOfBytes length]
  by_cases inside : i < P.length
  · rw [List.getElem?_append_left inside, List.getElem?_eq_getElem inside, List.getD_eq_getElem _ _ inside]
  · have padding : i - P.length < 16 - P.length := by omega
    rw [List.getElem?_append_right (by omega), List.getD_eq_default _ _ (by omega), zeros, repByte,
      List.getElem?_replicate_of_lt padding]

/-- The bytes that KEYLOAD takes its key from: KEYIN's below KLEN, and none from there on (R102). -/
theorem getD_take {klen i : Nat} (S : Bytes) : (S.take klen).getD i 0#8 = if i < klen then S.getD i 0#8 else 0#8 := by
  rw [List.getD_eq_getElem?_getD, List.getElem?_take]
  split
  · rw [List.getD_eq_getElem?_getD]
  · rfl

theorem exec_keyload_loads {klen : Nat} (fits : klen ≤ 16) (s : State) :
    exec (.keyload klen) s = .next (s.loadKey (deriveKey ((blockBytesOf s.keyin).take klen))).complete :=
  if_neg (Nat.not_lt.2 fits)

theorem exec_keyload_tooLong {klen : Nat} (long : 16 < klen) (s : State) :
    exec (.keyload klen) s = .next (s.raiseError .keySize) := if_pos long

/-- Settles O13: the words are KEYLOAD's encodings; the key is the one derived from the first KLEN bytes of KEYIN. -/
theorem keyloadCommand : Obligations.KeyloadCommand := by
  refine ⟨fun k hk => ?words, fun s klen => ⟨fun fits => ⟨_, exec_keyload_loads fits s, fun i hi => ?key⟩,
    fun long => exec_keyload_tooLong long s⟩⟩
  case words =>
    have wellFormed : (Instr.keyload k).wellFormed = true := (wellFormed_iff_operand_lt _).2 hk
    exact (decodeInvertsEncode _ _).2 ⟨wellFormed, BitVec.or_comm _ _⟩
  case key =>
    have length : ((blockBytesOf s.keyin).take klen).length ≤ 16 := (List.length_take_le _ _).trans fits
    exact (getElem?_deriveKey length hi).trans (congrArg some (getD_take _))

/-! ## No key: INVALID_KEY (R103, R126) -/

theorem badLength_encMsg_iff (s : State) : badLength .encMsg s ↔ s.tooLongToPad = true := by
  rw [State.tooLongToPad, decide_eq_true_iff]
  rfl

theorem badLength_decMsg_iff (s : State) : badLength .decMsg s ↔ s.badCipherLength = true := by
  rw [State.badCipherLength, decide_eq_true_iff]
  rfl

/-- A key-using command whose lengths are in order tests for the key before it writes anything (R130). -/
theorem exists_exec_eq_withKey {i : Instr} {s : State} (uses : usesKey i = true) (length : ¬ badLength i s) :
    ∃ use, exec i s = withKey s use := by
  cases i with
  | ecbEnc | ecbDec | cbcEncBlk | cbcDecBlk => exact ⟨_, rfl⟩
  | encMsg => exact ⟨_, if_neg (mt (badLength_encMsg_iff s).2 length)⟩
  | decMsg => exact ⟨_, if_neg (mt (badLength_decMsg_iff s).2 length)⟩
  | nop | keyload | keyclr | chainInit | pad | unpad => exact nomatch uses

/-- A key-using command whose lengths are in order ends with INVALID_KEY where no key is loaded (R126). -/
theorem exec_missing_key {i : Instr} {s : State} (missing : s.keyValid = false) (uses : usesKey i = true)
    (length : ¬ badLength i s) : exec i s = .next (s.raiseError .invalidKey) := by
  obtain ⟨use, tests⟩ := exists_exec_eq_withKey uses length
  exact tests.trans (withKey_missing missing use)

/-! ## Who sets KEY_VALID (R102, R103) -/

theorem Effect.keyload_of_keyValid {s t : State} {i : Instr} (e : Effect s i t) (before : s.keyValid = false)
    (after : t.keyValid = true) : ∃ k, i = .keyload k ∧ k ≤ 16 := by
  cases e with
  | keyload k fits => exact ⟨k, rfl, fits⟩
  | keyclr => exact nomatch after
  | _ => exact nomatch before.symm.trans after

/-- Of all turns, resets and those of the host among them, only the completion of a KEYLOAD sets KEY_VALID. -/
theorem Turn.keyload_of_keyValid {s t : State} (turn : Turn s t) (before : s.keyValid = false) (after : t.keyValid = true) :
    ∃ w k, s.pend = some w ∧ decode w = .ok (.keyload k) ∧ k ≤ 16 := by
  cases turn with
  | reset => exact nomatch after
  | command _ w _ _ _ _ inFlight decodes effect =>
    obtain ⟨k, rfl, fits⟩ := effect.keyload_of_keyValid before after
    exact ⟨w, k, inFlight, decodes, fits⟩
  | storedWrite rest off v =>
    obtain ⟨-, -, -, -, -, kept, -⟩ := writeSlot_frame { s with host := rest } (selectSlot s.bufBytes off) v
    exact nomatch (kept.trans before).symm.trans after
  | quiet | illegal | statusWrite | droppedWrite => exact nomatch before.symm.trans after

/-- Settles O14: KEYCLR's writes are its definition; without a key the key test fails; the step is one of the turns. -/
theorem keyclrCommand : Obligations.KeyclrCommand :=
  ⟨by decide, fun _ => rfl, fun _ _ => exec_missing_key, fun _ _ stepped => (turn_of_step stepped).keyload_of_keyValid⟩

/-! ## The key is not readable (R104) -/

/-- No register's value is taken from KEY, RK or KEYIN. -/
theorem slotValue_of_key_material (s : State) (k ki : Block) (rk : RoundKeys) (sl : Slot) :
    slotValue { s with key := k, keyin := ki, rk := rk } sl = slotValue s sl := by cases sl <;> rfl

/-- A read of a register that a command in flight leaves unspecified answers the next draw (R146, assumption log 4). -/
theorem busRead_unspecified {s : State} {off : BitVec 14} (aligned : off.toNat % 4 = 0)
    (h : (s.busy && (selectSlot s.bufBytes off).volatile) = true) :
    busRead off s = (.okay, Config.freeWord s.draws, { s with draws := s.draws + 1 }) := by
  obtain ⟨mis, -⟩ | ⟨-, -, -, answer⟩ | ⟨-, specified, -⟩ := busRead_cases off s
  · exact absurd aligned mis
  · exact answer
  · exact nomatch h.symm.trans specified

/-- Any other aligned read answers the register's value (R72). -/
theorem busRead_specified {s : State} {off : BitVec 14} (aligned : off.toNat % 4 = 0)
    (h : (s.busy && (selectSlot s.bufBytes off).volatile) = false) :
    busRead off s = (.okay, slotValue s (selectSlot s.bufBytes off), s) := by
  obtain ⟨mis, -⟩ | ⟨-, busy, volatile, -⟩ | ⟨-, -, answer⟩ := busRead_cases off s
  · exact absurd aligned mis
  · simp [busy, volatile] at h
  · exact answer

/-- Two machines answer a read alike where they agree on BUF_BYTES, BUSY, the count of draws and every register's value. -/
theorem busRead_answer_congr {s t : State} (size : t.bufBytes = s.bufBytes) (busy : t.busy = s.busy)
    (draws : t.draws = s.draws) (values : ∀ sl, slotValue t sl = slotValue s sl) (off : BitVec 14) :
    (busRead off t).1 = (busRead off s).1 ∧ (busRead off t).2.1 = (busRead off s).2.1 := by
  by_cases aligned : off.toNat % 4 = 0
  case neg =>
    rw [busRead_misaligned aligned, busRead_misaligned aligned]
    exact ⟨rfl, rfl⟩
  have same : (t.busy && (selectSlot t.bufBytes off).volatile) = (s.busy && (selectSlot s.bufBytes off).volatile) := by
    rw [size, busy]
  cases unspecified : s.busy && (selectSlot s.bufBytes off).volatile with
  | true =>
    rw [busRead_unspecified aligned (same.trans unspecified), busRead_unspecified aligned unspecified, draws]
    exact ⟨rfl, rfl⟩
  | false =>
    rw [busRead_specified aligned (same.trans unspecified), busRead_specified aligned unspecified, size, values]
    exact ⟨rfl, rfl⟩

/-- Settles O52: KEY, RK and KEYIN are none of the things a read's answer depends on. -/
theorem keyIsNotReadable : Obligations.KeyIsNotReadable :=
  ⟨fun s k ki rk => busRead_answer_congr rfl rfl rfl (slotValue_of_key_material s k ki rk),
    fun s j hj => congrArg (fun answer => answer.2.1) (busRead_keyin s ⟨j, hj⟩)⟩

end Sys2Proof.Machine
end

section
namespace Sys2Proof.Machine

/-! ## The chaining functions (R105-R107) -/

/-- Cutting the byte string of a list of blocks by its own length gives the list back (R105). -/
theorem blocksOfBytes_div_bytesOfBlocks (bs : List Block) :
    blocksOfBytes ((bytesOfBlocks bs).length / 16) (bytesOfBlocks bs) = bs := by
  rw [length_bytesOfBlocks, Nat.mul_div_cancel_left _ (by decide), blocksOfBytes_bytesOfBlocks]

/-- A byte string of whole blocks is the byte string of a list of blocks (R105). -/
theorem exists_bytesOfBlocks_eq {P : Bytes} (whole : P.length % 16 = 0) : ∃ bs, bytesOfBlocks bs = P :=
  ⟨_, bytesOfBlocks_blocksOfBytes (P.length / 16) (by omega)⟩

theorem cbcEncrypt_bytesOfBlocks (rk : RoundKeys) (v : Block) (ps : List Block) :
    cbcEncrypt rk v (bytesOfBlocks ps) = (bytesOfBlocks (cbcEncryptBlocks rk v ps).1, (cbcEncryptBlocks rk v ps).2) := by
  rw [cbcEncrypt, blocksOfBytes_div_bytesOfBlocks]

theorem cbcDecrypt_bytesOfBlocks (rk : RoundKeys) (v : Block) (cs : List Block) :
    cbcDecrypt rk v (bytesOfBlocks cs) = (bytesOfBlocks (cbcDecryptBlocks rk v cs).1, (cbcDecryptBlocks rk v cs).2) := by
  rw [cbcDecrypt, blocksOfBytes_div_bytesOfBlocks]

/-- Both directions chain on the same ciphertext blocks, so each decrypted block is the plaintext block (R107). -/
theorem cbcDecryptBlocks_cbcEncryptBlocks (rk : RoundKeys) (prev : Block) (ps : List Block) :
    cbcDecryptBlocks rk prev (cbcEncryptBlocks rk prev ps).1 = (ps, (cbcEncryptBlocks rk prev ps).2) := by
  induction ps generalizing prev with
  | nil => rfl
  | cons p rest ih => simp only [cbcEncryptBlocks, cbcDecryptBlocks, ih, invCipher_cipher, xorBlock_cancel]

/-- CBC decryption undoes CBC encryption, whatever the round keys (R107). -/
theorem cbcDecrypt_cbcEncrypt (rk : RoundKeys) (v : Block) {P : Bytes} (whole : P.length % 16 = 0) :
    cbcDecrypt rk v (cbcEncrypt rk v P).1 = (P, (cbcEncrypt rk v P).2) := by
  obtain ⟨ps, rfl⟩ := exists_bytesOfBlocks_eq whole
  rw [cbcEncrypt_bytesOfBlocks, cbcDecrypt_bytesOfBlocks, cbcDecryptBlocks_cbcEncryptBlocks]

/-- Settles O26: block by block the inverse cipher undoes the cipher and the second XOR the first. -/
theorem cbcDecryptUndoesCbcEncrypt : Obligations.CbcDecryptUndoesCbcEncrypt := by
  intro K V P whole
  refine ⟨?length, cbcDecrypt_cbcEncrypt _ V whole⟩
  rw [length_cbcEncrypt]
  omega

/-! ## The block commands (R108-R110) -/

theorem exec_chainInit (s : State) : exec .chainInit s = .next { s with chain := iv }.complete := rfl

/-- CBC.ENC.BLK completes with the cipher of DIN XOR CHAIN in DOUT and in CHAIN where a key is loaded (R109). -/
theorem exec_cbcEncBlk_loaded {s : State} (key : s.keyValid = true) :
    exec .cbcEncBlk s = .next
      { s with dout := cipher s.rk (xorBlock s.din s.chain), chain := cipher s.rk (xorBlock s.din s.chain) }.complete :=
  withKey_loaded key _

/-- CBC.DEC.BLK completes with the inverse cipher of DIN, XOR CHAIN, in DOUT and DIN in CHAIN where a key is loaded
(R110). -/
theorem exec_cbcDecBlk_loaded {s : State} (key : s.keyValid = true) :
    exec .cbcDecBlk s = .next { s with dout := xorBlock (invCipher s.rk s.din) s.chain, chain := s.din }.complete :=
  withKey_loaded key _

/-- An idle read of word `j` of CHAIN (R27, R48). -/
theorem busRead_chain_idle {s : State} (idle : s.pend = none) (j : Fin 4) :
    busRead (BitVec.ofNat 14 (0x040 + 4 * j)) s = (.okay, packWord (blockColumn s.chain j), s) := by
  obtain ⟨-, slot, -⟩ := selectSlot_word s.bufBytes j
  rw [busRead_idle idle (aligned_ofNat rfl j), slot]
  rfl

@[simp] theorem xorBlock_zeroBlock (a : Block) : xorBlock a zeroBlock = a := by
  simp [xorBlock, xorColumn, zeroBlock, zeroColumn]

/-- CbcEncrypt of one block (R105). -/
theorem cbcEncrypt_blockBytesOf (rk : RoundKeys) (v p : Block) :
    cbcEncrypt rk v (blockBytesOf p) = (blockBytesOf (cipher rk (xorBlock p v)), cipher rk (xorBlock p v)) :=
  cbcEncrypt_bytesOfBlocks rk v [p]

/-- CbcDecrypt of one block (R106). -/
theorem cbcDecrypt_blockBytesOf (rk : RoundKeys) (v c : Block) :
    cbcDecrypt rk v (blockBytesOf c) = (blockBytesOf (xorBlock (invCipher rk c) v), c) :=
  cbcDecrypt_bytesOfBlocks rk v [c]

/-- Settles O23: the next state has CHAIN = IV and nothing in flight, so its CHAIN words are read as the IV's. -/
theorem chainInitCommand : Obligations.ChainInitCommand := by
  refine ⟨by decide, fun s => ⟨_, exec_chainInit s, rfl, ?reads⟩⟩
  have words : packWord (blockColumn iv 0) = 0x03020100#32 ∧ packWord (blockColumn iv 1) = 0x07060504#32 ∧
      packWord (blockColumn iv 2) = 0x0B0A0908#32 ∧ packWord (blockColumn iv 3) = 0x0F0E0D0C#32 := by decide
  obtain ⟨iv0, iv1, iv2, iv3⟩ := words
  have reads (j : Fin 4) : (busRead (BitVec.ofNat 14 (0x040 + 4 * j)) { s with chain := iv }.complete).2.1 =
      packWord (blockColumn iv j) := congrArg (fun answer => answer.2.1) (busRead_chain_idle rfl j)
  exact ⟨(reads 0).trans iv0, (reads 1).trans iv1, (reads 2).trans iv2, (reads 3).trans iv3⟩

/-- Settles O24: the two outcomes of `withKey`, and CbcEncrypt of one block. -/
theorem cbcEncBlkCommand : Obligations.CbcEncBlkCommand := by
  refine ⟨by decide, fun s => ⟨fun key => ⟨exec_cbcEncBlk_loaded key, cbcEncrypt_blockBytesOf _ _ _, ?zeroChain⟩,
    fun missing => withKey_missing missing _⟩⟩
  intro zero
  rw [zero, xorBlock_zeroBlock]

/-- Settles O25: the two outcomes of `withKey`, and CbcDecrypt of one block. -/
theorem cbcDecBlkCommand : Obligations.CbcDecBlkCommand :=
  ⟨by decide, fun _ => ⟨fun key => ⟨exec_cbcDecBlk_loaded key, cbcDecrypt_blockBytesOf _ _ _⟩,
    fun missing => withKey_missing missing _⟩⟩

/-! ## A stream of block commands (R111) -/

/-- With a key loaded, the command `i` is one iteration of `chaining` from CHAIN over the block in DIN: it leaves the
iteration's output in DOUT and the start of the next iteration in CHAIN (R109, R110). -/
def IsIterationOf (i : Instr) (chaining : RoundKeys → Block → List Block → List Block × Block) : Prop :=
  ∀ s : State, s.keyValid = true → ∃ y v, exec i s = .next { s with dout := y, chain := v }.complete ∧
    ∀ rest, chaining s.rk s.chain (s.din :: rest) = (y :: (chaining s.rk v rest).1, (chaining s.rk v rest).2)

theorem isIterationOf_cbcEncBlk : IsIterationOf .cbcEncBlk cbcEncryptBlocks :=
  fun _ key => ⟨_, _, exec_cbcEncBlk_loaded key, fun _ => rfl⟩

theorem isIterationOf_cbcDecBlk : IsIterationOf .cbcDecBlk cbcDecryptBlocks :=
  fun _ key => ⟨_, _, exec_cbcDecBlk_loaded key, fun _ => rfl⟩

/-- A stream goes on from the state that its first block's command answers. -/
theorem streamBlocks_cons {i : Instr} {b : Block} {rest out : List Block} {s t u : State}
    (first : exec i { s with din := b } = .next t) (others : streamBlocks i rest t = some (out, u)) :
    streamBlocks i (b :: rest) s = some (t.dout :: out, u) := by simp only [streamBlocks, first, others]

/-- A stream of the command that is one iteration of `chaining` reads all its output blocks and leaves CHAIN at its end;
besides DIN, DOUT and the completion's fields nothing changes (R111). -/
theorem streamBlocks_of_isIterationOf {i : Instr} {chaining : RoundKeys → Block → List Block → List Block × Block}
    (iteration : IsIterationOf i chaining) (empty : ∀ rk v, chaining rk v [] = ([], v)) (bs : List Block) {s : State}
    (key : s.keyValid = true) :
    ∃ din dout err done pend, streamBlocks i bs s = some ((chaining s.rk s.chain bs).1,
      { s with din, dout, err, done, pend, chain := (chaining s.rk s.chain bs).2 }) := by
  induction bs generalizing s with
  | nil =>
    rw [empty]
    exact ⟨s.din, s.dout, s.err, s.done, s.pend, rfl⟩
  | cons b rest ih =>
    obtain ⟨y, v, first, chained⟩ := iteration { s with din := b } key
    obtain ⟨din, dout, err, done, pend, others⟩ := ih (s := { s with din := b, dout := y, chain := v }.complete) key
    refine ⟨din, dout, err, done, pend, ?_⟩
    rw [streamBlocks_cons first others, chained]
    rfl

/-- Settles O27: each block command is one iteration of its chaining function, and CHAIN.INIT starts it at the IV. -/
theorem blockStreamsMatchChaining : Obligations.BlockStreamsMatchChaining := by
  intro s P key _
  have loaded : ({ s with chain := iv }.complete).keyValid = true := key
  obtain ⟨_, _, _, _, _, encrypts⟩ := streamBlocks_of_isIterationOf isIterationOf_cbcEncBlk (fun _ _ => rfl)
    (blocksOfBytes (P.length / 16) P) loaded
  obtain ⟨_, _, _, _, _, decrypts⟩ := streamBlocks_of_isIterationOf isIterationOf_cbcDecBlk (fun _ _ => rfl)
    (blocksOfBytes (P.length / 16) P) loaded
  exact ⟨_, exec_chainInit s, ⟨_, _, encrypts, rfl, rfl⟩, ⟨_, _, decrypts, rfl, rfl⟩⟩

end Sys2Proof.Machine
end

section
namespace Sys2Proof.Machine

/-! ## Trimming (R114) -/

/-- Removing the trailing NULs is removing the leading ones of the reversed string (R114). -/
theorem trimTrailing_eq_reverse (R : Bytes) : trimTrailing R = (trimLeading R.reverse).reverse := rfl

/-- A string is a run of NULs followed by what removing the leading ones leaves of it (R114). -/
theorem exists_zeros_append_trimLeading (R : Bytes) : ∃ p, R = zeros p ++ trimLeading R := by
  have nuls : R.takeWhile isNul = zeros (R.takeWhile isNul).length :=
    List.eq_replicate_of_mem fun b mem => by simpa [isNul] using List.mem_takeWhile_imp mem
  refine ⟨(R.takeWhile isNul).length, ?_⟩
  rw [← nuls, trimLeading, List.takeWhile_append_dropWhile]

/-- A string is what removing the trailing NULs leaves of it, followed by a run of NULs (R114). -/
theorem exists_trimTrailing_append_zeros (R : Bytes) : ∃ q, R = trimTrailing R ++ zeros q := by
  obtain ⟨q, split⟩ := exists_zeros_append_trimLeading R.reverse
  refine ⟨q, ?_⟩
  calc R = (zeros q ++ trimLeading R.reverse).reverse := by rw [← split, List.reverse_reverse]
    _ = trimTrailing R ++ zeros q := by simp [trimTrailing_eq_reverse, zeros, repByte]

theorem trimLeading_eq_self_iff (R : Bytes) : trimLeading R = R ↔ R.head? ≠ some 0#8 := by
  cases R with
  | nil => simp [trimLeading]
  | cons b rest => simp [trimLeading, List.dropWhile_eq_self_iff, isNul]

theorem trimTrailing_eq_self_iff (R : Bytes) : trimTrailing R = R ↔ R.getLast? ≠ some 0#8 := by
  rw [trimTrailing_eq_reverse, List.reverse_eq_iff, trimLeading_eq_self_iff, List.head?_reverse]

theorem head?_trimLeading_ne (R : Bytes) : (trimLeading R).head? ≠ some 0#8 :=
  (trimLeading_eq_self_iff _).1 (List.dropWhile_idempotent isNul R)

theorem getLast?_trimTrailing_ne (R : Bytes) : (trimTrailing R).getLast? ≠ some 0#8 :=
  (trimTrailing_eq_self_iff _).1 (List.rdropWhile_idempotent isNul R)

theorem trimLeading_cons_nul (rest : Bytes) : trimLeading (0#8 :: rest) = trimLeading rest := rfl

theorem trimLeading_cons_of_ne {b : Byte} (ne : b ≠ 0#8) (rest : Bytes) : trimLeading (b :: rest) = b :: rest :=
  (trimLeading_eq_self_iff _).2 (by simpa using ne)

/-- A NUL in front is removed with the trailing ones exactly where nothing else is left behind it. -/
theorem trimTrailing_cons_nul (rest : Bytes) :
    trimTrailing (0#8 :: rest) = if trimTrailing rest = [] then [] else 0#8 :: trimTrailing rest := by
  simp only [trimTrailing, List.reverse_cons, List.dropWhile_append, List.isEmpty_iff, List.reverse_eq_nil_iff]
  split <;> simp [isNul]

theorem trimTrailing_cons_of_ne {b : Byte} (ne : b ≠ 0#8) (rest : Bytes) :
    trimTrailing (b :: rest) = b :: trimTrailing rest := by
  simp only [trimTrailing, List.reverse_cons, List.dropWhile_append, List.isEmpty_iff]
  split <;> simp [isNul, *]

/-- The order of the two trims does not matter (R114). -/
theorem trimTrailing_trimLeading (R : Bytes) : trimTrailing (trimLeading R) = trimLeading (trimTrailing R) := by
  induction R with
  | nil => rfl
  | cons b rest ih =>
    by_cases nul : b = 0#8
    · subst nul
      rw [trimLeading_cons_nul, ih, trimTrailing_cons_nul]
      split
      · next empty => rw [empty]
      · rfl
    · rw [trimLeading_cons_of_ne nul, trimTrailing_cons_of_ne nul, trimLeading_cons_of_ne nul]

theorem exists_zeros_append_trim (R : Bytes) (lead trail : Bool) :
    ∃ p q, R = zeros p ++ trim R lead trail ++ zeros q ∧ (lead = false → p = 0) ∧ (trail = false → q = 0) := by
  obtain ⟨q, hq⟩ := exists_trimTrailing_append_zeros R
  cases lead with
  | false =>
    cases trail with
    | false => exact ⟨0, 0, (List.append_nil R).symm, fun _ => rfl, fun _ => rfl⟩
    | true => exact ⟨0, q, hq, fun _ => rfl, nofun⟩
  | true =>
    cases trail with
    | false =>
      obtain ⟨p, hp⟩ := exists_zeros_append_trimLeading R
      exact ⟨p, 0, hp.trans (List.append_nil _).symm, nofun, fun _ => rfl⟩
    | true =>
      obtain ⟨p, hp⟩ := exists_zeros_append_trimLeading (trimTrailing R)
      exact ⟨p, q, hq.trans (congrArg (· ++ zeros q) hp), nofun, nofun⟩

theorem head?_trim_ne (R : Bytes) (trail : Bool) : (trim R true trail).head? ≠ some 0#8 := head?_trimLeading_ne _

theorem getLast?_trim_ne (R : Bytes) (lead : Bool) : (trim R lead true).getLast? ≠ some 0#8 := by
  cases lead with
  | false => exact getLast?_trimTrailing_ne R
  | true =>
    change (trimLeading (trimTrailing R)).getLast? ≠ some 0#8
    rw [← trimTrailing_trimLeading]
    exact getLast?_trimTrailing_ne _

/-- Trimming leaves a string alone exactly where no chosen edge is NUL (R116). -/
theorem trim_eq_self_iff (R : Bytes) (lead trail : Bool) :
    trim R lead trail = R ↔ (trail = true → R.getLast? ≠ some 0#8) ∧ (lead = true → R.head? ≠ some 0#8) := by
  constructor
  · intro same
    constructor
    · rintro rfl
      exact same ▸ getLast?_trim_ne R lead
    · rintro rfl
      exact same ▸ head?_trim_ne R trail
  · rintro ⟨last, head⟩
    have trailing : (if trail then trimTrailing R else R) = R :=
      ite_eq_right_iff.2 fun on => (trimTrailing_eq_self_iff R).2 (last on)
    simp only [trim, trailing]
    exact ite_eq_right_iff.2 fun on => (trimLeading_eq_self_iff R).2 (head on)

/-- Settles O29: each trim removes a run of NULs and leaves an edge that is none; that the two commute, by induction on
the string, carries the trailing edge through both. -/
theorem trimLaw : Obligations.TrimLaw := by
  intro R lead trail
  refine ⟨exists_zeros_append_trim R lead trail, ?head, ?last, trimTrailing_trimLeading R, rfl⟩
  case head =>
    rintro rfl
    exact head?_trim_ne R trail
  case last =>
    rintro rfl
    exact getLast?_trim_ne R lead

/-! ## Padding and unpadding (R112, R113, R115, R116) -/

theorem padCount_pos (len : Nat) : 1 ≤ padCount len := by
  unfold padCount
  omega

theorem padCount_le (len : Nat) : padCount len ≤ 16 := Nat.sub_le _ _

theorem length_padBytes_eq_add (P : Bytes) : (padBytes P).length = P.length + padCount P.length := by simp [padBytes]

/-- The last byte of a padded message is its pad count (R112, R115). -/
theorem toNat_getLastD_padBytes (P : Bytes) : ((padBytes P).getLastD 0#8).toNat = padCount P.length := by
  have pos := padCount_pos P.length
  have le := padCount_le P.length
  have last : (padBytes P).getLastD 0#8 = BitVec.ofNat 8 (padCount P.length) := by
    obtain ⟨k, hk⟩ := Nat.exists_eq_add_of_le' pos
    rw [padBytes, hk, repByte, List.replicate_succ', ← List.append_assoc, List.getLastD_concat]
  rw [last, BitVec.toNat_ofNat]
  omega

/-- Unpadding a padded message strips exactly the pad and trims the rest (R116). -/
theorem unpadBytes_padBytes (P : Bytes) (lead trail : Bool) :
    unpadBytes (padBytes P) lead trail = .ok (trim P lead trail) := by
  rw [unpadBytes_ok_iff, toNat_getLastD_padBytes, length_padBytes_eq_add, Nat.add_sub_cancel]
  exact ⟨⟨padCount_pos _, padCount_le _⟩, congrArg (trim · lead trail) List.take_left.symm⟩

/-- Settles O28: the multiple of 16 is `length_padBytes`, the rest is arithmetic on it. -/
theorem padLengthLaw : Obligations.PadLengthLaw := by
  intro P
  have blocks := length_padBytes P
  exact ⟨length_padBytes_eq_add P, blocks, by omega, by omega, by omega, padCount_pos _, padCount_le _⟩

/-- Settles O30: unpadding gives the trimmed message, which with trimming off is the message by definition. -/
theorem unpadUndoesPad : Obligations.UnpadUndoesPad := fun P lead trail =>
  ⟨unpadBytes_padBytes P false false, unpadBytes_padBytes P lead trail, trim_eq_self_iff P lead trail⟩

/-! ## PAD and UNPAD (R117, R118) -/

theorem Memory.getElem?_slice (m : Memory) {n i : Nat} (h : i < n) : (m.slice n)[i]? = some (m.read i) := by
  simp [Memory.slice, h]

/-- The last byte of a nonempty slice is the buffer's byte before its end. -/
theorem Memory.getLastD_slice (m : Memory) {n : Nat} (h : n ≠ 0) (b : Byte) : (m.slice n).getLastD b = m.read (n - 1) := by
  rw [List.getLastD_eq_getLast?, List.getLast?_eq_getElem?, Memory.length_slice, Memory.getElem?_slice m (by omega),
    Option.getD_some]

/-- OUT_LEN holds the length of an output that 16 bits can count (R33). -/
theorem State.toNat_output_outLen (s : State) {S : Bytes} (fits : S.length < 65536) :
    (s.output S).outLen.toNat = S.length := Nat.mod_eq_of_lt fits

/-- `OBUF[0..OUT_LEN)` is the output (R117-R120). -/
theorem State.slice_output (s : State) {S : Bytes} (fits : S.length < 65536) :
    (s.output S).obuf.slice (s.output S).outLen.toNat = S := by
  rw [s.toNat_output_outLen fits, State.output_obuf, Memory.slice_filled]

/-- Byte `i` of a padded input is the buffer's byte, then the pad count (R112). -/
theorem getElem?_padBytes_input (s : State) {i : Nat} (h : i < s.inputLength + padCount s.inputLength) :
    (padBytes s.input)[i]? =
      some (if i < s.inputLength then s.ibuf.read i else BitVec.ofNat 8 (padCount s.inputLength)) := by
  rw [padBytes, State.length_input]
  split_ifs with message
  · rw [List.getElem?_append_left (by simpa using message), State.input, Memory.getElem?_slice _ message]
  · rw [List.getElem?_append_right (by simpa using message), State.length_input, repByte,
      List.getElem?_replicate_of_lt (by omega)]

theorem exec_pad_fits {s : State} (fits : s.inputLength < s.bufBytes) :
    exec .pad s = .next (s.output (padBytes s.input)).complete :=
  if_neg (by simpa [State.tooLongToPad] using fits)

theorem exec_pad_tooLong {s : State} (long : s.bufBytes ≤ s.inputLength) :
    exec .pad s = .next (s.raiseError .bufferSize) :=
  if_pos (decide_eq_true long)

theorem badLength_unpad_iff (s : State) : badLength .unpad s ↔ s.badCipherLength = true := badLength_decMsg_iff s

/-- UNPAD raises BUFFER_SIZE on a length that is no positive multiple of 16 up to BUF_BYTES (R118). -/
theorem exec_unpad_badLength {s : State} (bad : badLength .unpad s) :
    exec .unpad s = .next (s.raiseError .bufferSize) :=
  if_pos ((badLength_unpad_iff s).1 bad)

theorem exec_unpad_ok {s : State} {R : Bytes} (good : ¬ badLength .unpad s)
    (unpads : unpadBytes s.input s.trimLead s.trimTrail = .ok R) : exec .unpad s = .next (s.output R).complete := by
  refine (if_neg (mt (badLength_unpad_iff s).2 good)).trans ?_
  rw [unpads]

theorem exec_unpad_error {s : State} {e : ErrCode} (good : ¬ badLength .unpad s)
    (fails : unpadBytes s.input s.trimLead s.trimTrail = .error e) : exec .unpad s = .next (s.raiseError e) := by
  refine (if_neg (mt (badLength_unpad_iff s).2 good)).trans ?_
  rw [fails]

/-- Settles O31: PAD's output is the padded input, byte by byte, and at most 4096 bytes, so OUT_LEN counts it. -/
theorem padCommand : Obligations.PadCommand := by
  refine ⟨by decide, fun s buffer => ⟨fun fits => ?completes, exec_pad_tooLong⟩⟩
  have length : (padBytes s.input).length = s.inputLength + padCount s.inputLength := by
    rw [length_padBytes_eq_add, State.length_input]
  have small : (padBytes s.input).length < 65536 := by
    have pad := padCount_le s.inputLength
    have fits : s.inputLength < s.bufBytes := fits
    omega
  have outLen := (s.toNat_output_outLen small).trans length
  refine ⟨_, _, exec_pad_fits fits, outLen, fun i below => ?_⟩
  rw [State.output_obuf, Memory.read_filled, getElem?_padBytes_input s (below.trans_eq outLen)]
  rfl

/-- Settles O32: the last byte of the input decides between the unpadder's two answers; an output is no longer than the
input, so OUT_LEN counts it. -/
theorem unpadCommand : Obligations.UnpadCommand := by
  refine ⟨by decide, fun s buffer => ?_⟩
  intro L n
  have good (nonzero : L ≠ 0) (whole : L % 16 = 0) (fits : L ≤ s.bufBytes) : ¬ badLength .unpad s := by
    rintro (zero | part | long)
    · exact nonzero zero
    · exact part whole
    · exact Nat.not_lt.2 fits long
  have last (nonzero : L ≠ 0) : (s.input.getLastD 0#8).toNat = n :=
    congrArg BitVec.toNat (s.ibuf.getLastD_slice nonzero 0#8)
  refine ⟨fun nonzero whole fits low high => ?ok, exec_unpad_badLength, fun nonzero whole fits outside => ?dataSize⟩
  case ok =>
    have unpads : unpadBytes s.input s.trimLead s.trimTrail = .ok (trim (s.input.take (L - n)) s.trimLead s.trimTrail) := by
      rw [unpadBytes_ok_iff, last nonzero, State.length_input]
      exact ⟨⟨low, high⟩, rfl⟩
    have small : (trim (s.input.take (L - n)) s.trimLead s.trimTrail).length < 65536 :=
      (length_le_of_unpadBytes_ok unpads).trans_lt (s.length_input.trans_lt s.msgLen.isLt)
    exact ⟨_, _, exec_unpad_ok (good nonzero whole fits) unpads, s.slice_output small⟩
  case dataSize =>
    refine exec_unpad_error (good nonzero whole fits) ((unpadBytes_error_iff _ _ _ _).2 ⟨?_, rfl⟩)
    rw [last nonzero]
    exact outside

end Sys2Proof.Machine
end

section
namespace Sys2Proof.Machine

/-! ## Chaining over blocks in a row, and its last block (R105, R106) -/

theorem bytesOfBlocks_append (as bs : List Block) : bytesOfBlocks (as ++ bs) = bytesOfBlocks as ++ bytesOfBlocks bs :=
  List.flatMap_append

/-- Encrypting blocks in a row is encrypting the later ones from the last ciphertext block of the earlier ones (R105). -/
theorem cbcEncryptBlocks_append (rk : RoundKeys) (v : Block) (ps qs : List Block) :
    cbcEncryptBlocks rk v (ps ++ qs) =
      ((cbcEncryptBlocks rk v ps).1 ++ (cbcEncryptBlocks rk (cbcEncryptBlocks rk v ps).2 qs).1,
        (cbcEncryptBlocks rk (cbcEncryptBlocks rk v ps).2 qs).2) := by
  induction ps generalizing v with
  | nil => rfl
  | cons p rest ih => simp only [List.cons_append, cbcEncryptBlocks, ih]

theorem cbcEncryptBlocks_last (rk : RoundKeys) (v : Block) (ps : List Block) :
    (cbcEncryptBlocks rk v ps).2 = (cbcEncryptBlocks rk v ps).1.getLastD v := by
  induction ps generalizing v with
  | nil => rfl
  | cons p rest ih => rw [cbcEncryptBlocks, List.getLastD_cons, ih]

theorem cbcDecryptBlocks_last (rk : RoundKeys) (v : Block) (cs : List Block) :
    (cbcDecryptBlocks rk v cs).2 = cs.getLastD v := by
  induction cs generalizing v with
  | nil => rfl
  | cons c rest ih => rw [cbcDecryptBlocks, List.getLastD_cons, ih]

/-- The last 16 bytes of a nonempty list of blocks are its last block. -/
theorem drop_bytesOfBlocks {bs : List Block} (ne : bs ≠ []) (v : Block) :
    (bytesOfBlocks bs).drop ((bytesOfBlocks bs).length - 16) = blockBytesOf (bs.getLastD v) := by
  obtain ⟨as, b, rfl⟩ := List.eq_nil_or_concat' bs |>.resolve_left ne
  rw [List.getLastD_concat, bytesOfBlocks_append, List.length_append]
  exact List.drop_left

/-- The second result of CbcEncrypt is the last ciphertext block (R105). -/
theorem blockBytesOf_cbcEncrypt_last (rk : RoundKeys) (v : Block) {P : Bytes} (block : 16 ≤ P.length) :
    blockBytesOf (cbcEncrypt rk v P).2 = (cbcEncrypt rk v P).1.drop ((cbcEncrypt rk v P).1.length - 16) := by
  have ne : (cbcEncryptBlocks rk v (blocksOfBytes (P.length / 16) P)).1 ≠ [] :=
    List.ne_nil_of_length_pos (by rw [length_cbcEncryptBlocks, length_blocksOfBytes]; omega)
  exact (congrArg blockBytesOf (cbcEncryptBlocks_last rk v _)).trans (drop_bytesOfBlocks ne v).symm

/-- The second result of CbcDecrypt is the last ciphertext block (R106). -/
theorem blockBytesOf_cbcDecrypt_last (rk : RoundKeys) (v : Block) {C : Bytes} (block : C ≠ [])
    (whole : C.length % 16 = 0) : blockBytesOf (cbcDecrypt rk v C).2 = C.drop (C.length - 16) := by
  obtain ⟨cs, rfl⟩ := exists_bytesOfBlocks_eq whole
  have ne : cs ≠ [] := by
    rintro rfl
    exact block rfl
  rw [cbcDecrypt_bytesOfBlocks, cbcDecryptBlocks_last, drop_bytesOfBlocks ne v]

/-- Both directions chain on the same ciphertext blocks, so each re-encrypted block is the ciphertext block. -/
theorem cbcEncryptBlocks_cbcDecryptBlocks (rk : RoundKeys) (prev : Block) (cs : List Block) :
    cbcEncryptBlocks rk prev (cbcDecryptBlocks rk prev cs).1 = (cs, (cbcDecryptBlocks rk prev cs).2) := by
  induction cs generalizing prev with
  | nil => rfl
  | cons c rest ih => simp only [cbcEncryptBlocks, cbcDecryptBlocks, xorBlock_cancel, cipher_invCipher, ih]

/-- CBC encryption undoes CBC decryption, whatever the round keys. -/
theorem cbcEncrypt_cbcDecrypt (rk : RoundKeys) (v : Block) {C : Bytes} (whole : C.length % 16 = 0) :
    cbcEncrypt rk v (cbcDecrypt rk v C).1 = (C, (cbcDecrypt rk v C).2) := by
  obtain ⟨cs, rfl⟩ := exists_bytesOfBlocks_eq whole
  rw [cbcDecrypt_bytesOfBlocks, cbcEncrypt_bytesOfBlocks, cbcEncryptBlocks_cbcDecryptBlocks]

/-- A string encrypts to a ciphertext exactly where the ciphertext decrypts to it (R107). -/
theorem cbcEncrypt_eq_iff (rk : RoundKeys) (v : Block) {P C : Bytes} (plain : P.length % 16 = 0)
    (whole : C.length % 16 = 0) : (cbcEncrypt rk v P).1 = C ↔ P = (cbcDecrypt rk v C).1 := by
  constructor
  · rintro rfl
    rw [cbcDecrypt_cbcEncrypt rk v plain]
  · rintro rfl
    rw [cbcEncrypt_cbcDecrypt rk v whole]

theorem length_padBytes_mod (P : Bytes) : (padBytes P).length % 16 = 0 := by
  rw [length_padBytes, Nat.mul_mod_right]

theorem length_cbcEncrypt_padBytes (rk : RoundKeys) (v : Block) (P : Bytes) :
    (cbcEncrypt rk v (padBytes P)).1.length = 16 * (P.length / 16 + 1) := by
  rw [length_cbcEncrypt, length_padBytes, Nat.mul_div_cancel_left _ (by decide)]

/-! ## What ENC.MSG and DEC.MSG can do (R119, R120) -/

/-- A message command completes with the output `S` and the last ciphertext block in CHAIN (R119, R120). -/
def State.deliver (s : State) (S : Bytes) (last : Block) : State := { s.output S with chain := last }.complete

theorem State.toNat_deliver_outLen (s : State) {S : Bytes} (fits : S.length < 65536) (last : Block) :
    (s.deliver S last).outLen.toNat = S.length := s.toNat_output_outLen fits

theorem State.slice_deliver (s : State) {S : Bytes} (fits : S.length < 65536) (last : Block) :
    (s.deliver S last).obuf.slice (s.deliver S last).outLen.toNat = S := s.slice_output fits

theorem exec_encMsg_badLength {s : State} (bad : badLength .encMsg s) :
    exec .encMsg s = .next (s.raiseError .bufferSize) :=
  if_pos ((badLength_encMsg_iff s).1 bad)

theorem exec_encMsg_loaded {s : State} (good : ¬ badLength .encMsg s) (key : s.keyValid = true) :
    exec .encMsg s = .next
      (s.deliver (cbcEncrypt s.rk iv (padBytes s.input)).1 (cbcEncrypt s.rk iv (padBytes s.input)).2) :=
  (if_neg (mt (badLength_encMsg_iff s).2 good)).trans (withKey_loaded key _)

/-- An ENC.MSG that ends without error met its conditions and delivered the ciphertext. -/
theorem encMsg_of_ok {s t : State} (h : exec .encMsg s = .next t) (ok : t.err = .ok) :
    s.inputLength < s.bufBytes ∧ s.keyValid = true ∧
      t = s.deliver (cbcEncrypt s.rk iv (padBytes s.input)).1 (cbcEncrypt s.rk iv (padBytes s.input)).2 := by
  by_cases length : badLength .encMsg s
  · cases h.symm.trans (exec_encMsg_badLength length)
    exact nomatch ok
  · cases key : s.keyValid with
    | false =>
      cases h.symm.trans (exec_missing_key key rfl length)
      exact nomatch ok
    | true => exact ⟨Nat.lt_of_not_le length, rfl, Host.Outcome.next.inj (h.symm.trans (exec_encMsg_loaded length key))⟩

/-- The ciphertext of a message that fits a buffer of at most 4096 bytes has a length that OUT_LEN can hold. -/
theorem length_ciphertext {s : State} (buffer : s.bufBytes ≤ 4096) (fits : s.inputLength < s.bufBytes) :
    (cbcEncrypt s.rk iv (padBytes s.input)).1.length < 65536 := by
  rw [length_cbcEncrypt_padBytes, State.length_input]
  omega

theorem not_badLength_decMsg_iff (s : State) :
    ¬ badLength .decMsg s ↔ s.inputLength ≠ 0 ∧ s.inputLength % 16 = 0 ∧ s.inputLength ≤ s.bufBytes := by
  change ¬ (s.inputLength = 0 ∨ s.inputLength % 16 ≠ 0 ∨ s.bufBytes < s.inputLength) ↔ _
  omega

theorem exec_decMsg_badLength {s : State} (bad : badLength .decMsg s) :
    exec .decMsg s = .next (s.raiseError .bufferSize) :=
  if_pos ((badLength_decMsg_iff s).1 bad)

theorem exec_decMsg_ok {s : State} {R : Bytes} (good : ¬ badLength .decMsg s) (key : s.keyValid = true)
    (unpads : unpadBytes (cbcDecrypt s.rk iv s.input).1 s.trimLead s.trimTrail = .ok R) :
    exec .decMsg s = .next (s.deliver R (cbcDecrypt s.rk iv s.input).2) := by
  refine ((if_neg (mt (badLength_decMsg_iff s).2 good)).trans (withKey_loaded key _)).trans ?_
  rw [unpads]
  rfl

theorem exec_decMsg_error {s : State} {e : ErrCode} (good : ¬ badLength .decMsg s) (key : s.keyValid = true)
    (fails : unpadBytes (cbcDecrypt s.rk iv s.input).1 s.trimLead s.trimTrail = .error e) :
    exec .decMsg s = .next (s.raiseError e) := by
  refine ((if_neg (mt (badLength_decMsg_iff s).2 good)).trans (withKey_loaded key _)).trans ?_
  rw [fails]

/-- A DEC.MSG that ends without error met its conditions and delivered what the unpadder answered. -/
theorem decMsg_of_ok {s t : State} (h : exec .decMsg s = .next t) (ok : t.err = .ok) :
    ¬ badLength .decMsg s ∧ s.keyValid = true ∧
      ∃ R, unpadBytes (cbcDecrypt s.rk iv s.input).1 s.trimLead s.trimTrail = .ok R ∧
        t = s.deliver R (cbcDecrypt s.rk iv s.input).2 := by
  by_cases length : badLength .decMsg s
  · cases h.symm.trans (exec_decMsg_badLength length)
    exact nomatch ok
  · refine ⟨length, ?_⟩
    cases key : s.keyValid with
    | false =>
      cases h.symm.trans (exec_missing_key key rfl length)
      exact nomatch ok
    | true =>
      cases unpads : unpadBytes (cbcDecrypt s.rk iv s.input).1 s.trimLead s.trimTrail with
      | error e =>
        obtain ⟨-, rfl⟩ := (unpadBytes_error_iff _ _ _ _).1 unpads
        cases h.symm.trans (exec_decMsg_error length key unpads)
        exact nomatch ok
      | ok R => exact ⟨rfl, R, rfl, Host.Outcome.next.inj (h.symm.trans (exec_decMsg_ok length key unpads))⟩

/-- Unpadding removes at least one byte (R115). -/
theorem length_lt_of_unpadBytes_ok {Q R : Bytes} {lead trail : Bool} (h : unpadBytes Q lead trail = .ok R) :
    R.length < Q.length := by
  obtain ⟨⟨low, -⟩, rfl⟩ := (unpadBytes_ok_iff Q R lead trail).1 h
  have nonempty : 0 < Q.length := List.length_pos_of_ne_nil (by rintro rfl; exact absurd low (by decide))
  have stripped : (Q.take (Q.length - (Q.getLastD 0#8).toNat)).length < Q.length := by
    rw [List.length_take]
    omega
  exact (length_trim_le _ lead trail).trans_lt stripped

/-- DEC.MSG delivers fewer bytes than it reads (R121). -/
theorem length_message_lt {s : State} {R : Bytes}
    (unpads : unpadBytes (cbcDecrypt s.rk iv s.input).1 s.trimLead s.trimTrail = .ok R) : R.length < s.inputLength := by
  have shorter := length_lt_of_unpadBytes_ok unpads
  rw [length_cbcDecrypt, State.length_input] at shorter
  omega

/-- Settles O33: the ciphertext is one block longer than the message's full blocks, and its last block is in CHAIN. -/
theorem encMsgCommand : Obligations.EncMsgCommand := by
  refine ⟨by decide, fun s buffer => ⟨fun fits key => ?completes, exec_encMsg_badLength,
    fun fits missing => exec_missing_key missing rfl (Nat.not_le.2 fits)⟩⟩
  have small := length_ciphertext buffer fits
  have outLen := (s.toNat_output_outLen small).trans (length_cbcEncrypt_padBytes s.rk iv s.input)
  have slice := s.slice_output small
  refine ⟨_, _, exec_encMsg_loaded (Nat.not_le.2 fits) key, ?length, slice, ?last⟩
  case length =>
    rw [outLen, State.length_input, State.inputLength]
    omega
  case last =>
    rw [slice, s.toNat_output_outLen small, bytesOfBlocks_cons, bytesOfBlocks_nil, List.append_nil]
    exact blockBytesOf_cbcEncrypt_last s.rk iv (by rw [length_padBytes]; omega)

/-- Settles O34: decryption keeps the length of whole blocks, so the unpadder strips the last N of MSG_LEN bytes. -/
theorem decMsgCommand : Obligations.DecMsgCommand := by
  refine ⟨by decide, fun s buffer => ?_⟩
  intro L q n
  have good (nonzero : L ≠ 0) (whole : L % 16 = 0) (fits : L ≤ s.bufBytes) : ¬ badLength .decMsg s :=
    (not_badLength_decMsg_iff s).2 ⟨nonzero, whole, fits⟩
  refine ⟨fun nonzero whole fits key low high => ?ok, exec_decMsg_badLength,
    fun nonzero whole fits missing => exec_missing_key missing rfl (good nonzero whole fits),
    fun nonzero whole fits key outside => exec_decMsg_error (good nonzero whole fits) key
      ((unpadBytes_error_iff _ _ _ _).2 ⟨outside, rfl⟩)⟩
  have length : s.input.length = L := s.length_input
  have decrypted : q.length = L := by
    have blocks : q.length = 16 * (s.input.length / 16) := length_cbcDecrypt _ _ _
    omega
  have unpads : unpadBytes q s.trimLead s.trimTrail = .ok (trim (q.take (L - n)) s.trimLead s.trimTrail) := by
    rw [unpadBytes_ok_iff, decrypted]
    exact ⟨⟨low, high⟩, rfl⟩
  have small := (length_message_lt unpads).trans s.msgLen.isLt
  have block : s.input ≠ [] := List.ne_nil_of_length_pos (by omega)
  have last := blockBytesOf_cbcDecrypt_last s.rk iv block (length ▸ whole)
  rw [length] at last
  exact ⟨_, _, _, exec_decMsg_ok (good nonzero whole fits) key unpads, s.slice_output small, last⟩

/-! ## The laws of the message commands (R121-R124) -/

/-- Settles O35: padding fills up the next block, and unpadding removes a byte or more. -/
theorem messageLengthLaws : Obligations.MessageLengthLaws := by
  intro s t buffer ok
  constructor
  · intro h
    obtain ⟨fits, -, rfl⟩ := encMsg_of_ok h ok
    have outLen := s.toNat_deliver_outLen (length_ciphertext buffer fits) (cbcEncrypt s.rk iv (padBytes s.input)).2
    rw [length_cbcEncrypt_padBytes, State.length_input, State.inputLength] at outLen
    exact ⟨by omega, by omega, 16 - s.msgLen.toNat % 16, by omega, by omega, by omega⟩
  · intro h
    obtain ⟨-, -, R, unpads, rfl⟩ := decMsg_of_ok h ok
    have shorter := length_message_lt unpads
    rw [s.toNat_deliver_outLen (shorter.trans s.msgLen.isLt)]
    exact shorter

/-- Where the host has copied the first `n` bytes of a buffer to IBUF and `n` to MSG_LEN, they are the input. -/
theorem State.input_eq_slice {u : State} {m : Memory} {n : BitVec 16} (length : u.msgLen = n)
    (copied : ∀ i, i < n.toNat → u.ibuf.read i = m.read i) : u.input = m.slice n.toNat := by
  subst length
  exact List.map_congr_left fun i mem => copied i (List.mem_range.1 mem)

/-- Settles O36: the host's copy makes the ciphertext DEC.MSG's input, whose decryption is the padded message. -/
theorem messageRoundTrip : Obligations.MessageRoundTrip := by
  intro s t u inv h ok size _ rk keyValid msgLen copied
  obtain ⟨fits, key, rfl⟩ := encMsg_of_ok h ok
  have small := length_ciphertext inv.bufBytes_legal.2.1 fits
  have input : u.input = (cbcEncrypt s.rk iv (padBytes s.input)).1 :=
    (State.input_eq_slice msgLen copied).trans (s.slice_deliver small _)
  have good : ¬ badLength .decMsg u := by
    have padded := inv.padded_fits fits
    rw [not_badLength_decMsg_iff, ← State.length_input, input, length_cbcEncrypt_padBytes, size]
    rw [length_padBytes] at padded
    omega
  have decrypted : (cbcDecrypt u.rk iv u.input).1 = padBytes s.input := by
    rw [input, rk]
    exact congrArg Prod.fst (cbcDecrypt_cbcEncrypt s.rk iv (length_padBytes_mod s.input))
  have unpads : unpadBytes (cbcDecrypt u.rk iv u.input).1 u.trimLead u.trimTrail =
      .ok (trim s.input u.trimLead u.trimTrail) := by
    rw [decrypted, unpadBytes_padBytes]
  have slice := u.slice_deliver ((length_message_lt unpads).trans u.msgLen.isLt) (cbcDecrypt u.rk iv u.input).2
  refine ⟨_, exec_decMsg_ok good (keyValid.trans key) unpads, rfl, slice, fun lead trail => slice.trans ?_⟩
  rw [lead, trail]
  rfl

/-- Settles O37: under a loaded key RK is the expansion of KEY, so the two commands encrypt the same input alike. -/
theorem encMsgIsDeterministic : Obligations.EncMsgIsDeterministic := by
  intro a b t u inv inv' key msgLen same h h' ok ok'
  obtain ⟨fits, loaded, rfl⟩ := encMsg_of_ok h ok
  obtain ⟨fits', loaded', rfl⟩ := encMsg_of_ok h' ok'
  have rk : a.rk = b.rk := by rw [inv.keys_expanded loaded, inv'.keys_expanded loaded', key]
  have input : a.input = b.input := State.input_eq_slice msgLen (msgLen ▸ same)
  rw [a.slice_deliver (length_ciphertext inv.bufBytes_legal.2.1 fits),
    b.slice_deliver (length_ciphertext inv'.bufBytes_legal.2.1 fits'), rk, input]
  exact ⟨rfl, rfl, rfl⟩

/-- Settles O38: ENC.MSG's input is DEC.MSG's result R, and Pad(R) encrypts to C exactly where C decrypts to it. -/
theorem reencryptionLaw : Obligations.ReencryptionLaw := by
  intro s t u inv h ok size rk keyValid msgLen copied
  obtain ⟨good, key, R, unpads, rfl⟩ := decMsg_of_ok h ok
  obtain ⟨-, whole, fits⟩ := (not_badLength_decMsg_iff s).1 good
  have shorter := length_message_lt unpads
  have slice := s.slice_deliver (shorter.trans s.msgLen.isLt) (cbcDecrypt s.rk iv s.input).2
  have input : u.input = R := (State.input_eq_slice msgLen copied).trans slice
  have fitsAgain : u.inputLength < u.bufBytes := by
    rw [← State.length_input, input, size]
    exact shorter.trans_le fits
  have small := length_ciphertext (size.trans_le inv.bufBytes_legal.2.1) fitsAgain
  refine ⟨_, exec_encMsg_loaded (Nat.not_le.2 fitsAgain) (keyValid.trans key), rfl, ?_⟩
  rw [u.slice_deliver small, slice, input, rk]
  exact cbcEncrypt_eq_iff s.rk iv (length_padBytes_mod R) (by rw [Memory.length_slice]; exact whole)

/-! ## The procedure for long messages (R125) -/

/-- The blocks in front of a byte string are cut off it one by one (R105). -/
theorem blocksOfBytes_bytesOfBlocks_append (bs : List Block) (S : Bytes) :
    blocksOfBytes bs.length (bytesOfBlocks bs ++ S) = bs := by
  induction bs with
  | nil => rfl
  | cons b rest ih =>
    rw [bytesOfBlocks_cons, List.append_assoc, List.length_cons, blocksOfBytes, blockOfBytes_append,
      show (blockBytesOf b ++ (bytesOfBlocks rest ++ S)).drop 16 = bytesOfBlocks rest ++ S from rfl, ih]

/-- A byte string is its full blocks and fewer than 16 bytes more. -/
theorem exists_bytesOfBlocks_append_eq (P : Bytes) : ∃ bs Q, bytesOfBlocks bs ++ Q = P ∧ Q.length < 16 := by
  have whole : (P.take (16 * (P.length / 16))).length = 16 * (P.length / 16) := by
    rw [List.length_take]
    omega
  refine ⟨blocksOfBytes (P.length / 16) (P.take (16 * (P.length / 16))), P.drop (16 * (P.length / 16)), ?_, ?_⟩
  · rw [bytesOfBlocks_blocksOfBytes _ whole, List.take_append_drop]
  · rw [List.length_drop]
    omega

/-- Padding looks only at what follows the full blocks (R112). -/
theorem padBytes_bytesOfBlocks_append (bs : List Block) (Q : Bytes) :
    padBytes (bytesOfBlocks bs ++ Q) = bytesOfBlocks bs ++ padBytes Q := by
  have count : padCount (bytesOfBlocks bs ++ Q).length = padCount Q.length := by
    rw [List.length_append, length_bytesOfBlocks, padCount, padCount, Nat.mul_add_mod]
  rw [padBytes, count, List.append_assoc, padBytes]

/-- Fewer than 16 bytes are padded to one block (R112). -/
theorem exists_padBytes_eq_block {Q : Bytes} (short : Q.length < 16) : ∃ b, padBytes Q = blockBytesOf b :=
  ⟨_, (blockBytesOf_blockOfBytes (by rw [length_padBytes, Nat.div_eq_of_lt short])).symm⟩

/-- The encryption of a padded message is that of its full blocks, then that of the block its rest is padded to. -/
theorem cbcEncrypt_padBytes_append (rk : RoundKeys) (v : Block) (bs : List Block) {Q : Bytes} {b : Block}
    (padded : padBytes Q = blockBytesOf b) :
    cbcEncrypt rk v (padBytes (bytesOfBlocks bs ++ Q)) =
      (bytesOfBlocks ((cbcEncryptBlocks rk v bs).1 ++ [cipher rk (xorBlock b (cbcEncryptBlocks rk v bs).2)]),
        cipher rk (xorBlock b (cbcEncryptBlocks rk v bs).2)) := by
  have block : bytesOfBlocks bs ++ blockBytesOf b = bytesOfBlocks (bs ++ [b]) := (bytesOfBlocks_append bs [b]).symm
  rw [padBytes_bytesOfBlocks_append, padded, block, cbcEncrypt_bytesOfBlocks, cbcEncryptBlocks_append]
  rfl

/-- PAD of an input that is padded to one block, then CBC.ENC.BLK of the block it leaves in OBUF (R109, R117). -/
theorem exists_pad_then_cbcEncBlk {s : State} {b : Block} (key : s.keyValid = true) (fits : s.inputLength < s.bufBytes)
    (padded : padBytes s.input = blockBytesOf b) :
    ∃ x y, exec .pad s = .next x ∧ x.err = .ok ∧ x.outLen = 16#16 ∧
      streamBlocks .cbcEncBlk (blocksOfBytes 1 (x.obuf.slice 16)) x = some ([cipher s.rk (xorBlock b s.chain)], y) ∧
      y.chain = cipher s.rk (xorBlock b s.chain) := by
  have pads := exec_pad_fits fits
  rw [padded] at pads
  have block : (Memory.filled s.draws (blockBytesOf b)).slice 16 = blockBytesOf b := Memory.slice_filled _ _
  have blocks : blocksOfBytes 1 ((s.output (blockBytesOf b)).complete.obuf.slice 16) = [b] :=
    congrArg (blocksOfBytes 1) block
  have encrypts := exec_cbcEncBlk_loaded (s := { (s.output (blockBytesOf b)).complete with din := b }) key
  have stream := streamBlocks_cons (rest := []) encrypts rfl
  rw [← blocks] at stream
  exact ⟨_, _, pads, rfl, rfl, stream, rfl⟩

/-- CHAIN.INIT, then CBC.ENC.BLK for each block: CHAIN goes on from the IV, and the key and BUF_BYTES stay (R111). -/
theorem exists_chainInit_then_stream {s : State} (key : s.keyValid = true) (bs : List Block) :
    ∃ t u, exec .chainInit s = .next t ∧
      streamBlocks .cbcEncBlk bs t = some ((cbcEncryptBlocks s.rk iv bs).1, u) ∧
      u.chain = (cbcEncryptBlocks s.rk iv bs).2 ∧ u.rk = s.rk ∧ u.keyValid = true ∧ u.bufBytes = s.bufBytes := by
  obtain ⟨_, _, _, _, _, stream⟩ := streamBlocks_of_isIterationOf isIterationOf_cbcEncBlk (fun _ _ => rfl) bs
    (s := { s with chain := iv }.complete) key
  exact ⟨_, _, exec_chainInit s, stream, rfl, rfl, key, rfl⟩

/-- Settles O39: the full blocks' stream leaves CHAIN where the encryption of the padded rest goes on, which is one block. -/
theorem longMessageProcedure : Obligations.LongMessageProcedure := by
  intro s P inv key
  obtain ⟨bs, Q, rfl, short⟩ := exists_bytesOfBlocks_append_eq P
  have length : (bytesOfBlocks bs ++ Q).length = 16 * bs.length + Q.length := by
    rw [List.length_append, length_bytesOfBlocks]
  have full : (bytesOfBlocks bs ++ Q).length / 16 = bs.length := by omega
  have rest : (bytesOfBlocks bs ++ Q).length % 16 = Q.length := by omega
  rw [full, rest, blocksOfBytes_bytesOfBlocks_append, ← length_bytesOfBlocks, List.drop_left]
  obtain ⟨t, u, init, stream, chain, rk, loaded, size⟩ := exists_chainInit_then_stream key bs
  refine ⟨t, _, u, init, stream, fun m written => ?_⟩
  have msgLen : (BitVec.ofNat 16 Q.length).toNat = Q.length := Nat.mod_eq_of_lt (by omega)
  have input : m.slice (BitVec.ofNat 16 Q.length).toNat = Q := by rw [msgLen, written]
  have fits : (BitVec.ofNat 16 Q.length).toNat < u.bufBytes := by
    have buffer := inv.bufBytes_legal.1
    omega
  obtain ⟨b, padded⟩ := exists_padBytes_eq_block short
  obtain ⟨x, y, pads, ok, outLen, encrypts, last⟩ :=
    exists_pad_then_cbcEncBlk (s := { u with ibuf := m, msgLen := BitVec.ofNat 16 Q.length }) loaded fits
      ((congrArg padBytes input).trans padded)
  rw [cbcEncrypt_padBytes_append s.rk iv bs padded, ← chain, ← rk]
  exact ⟨x, _, y, pads, ok, outLen, encrypts, rfl, last⟩

end Sys2Proof.Machine
end

section
namespace Sys2Proof.Machine

/-! ## Illegal commands (R128) -/

/-- Settles O9: the illegal word's completion writes ERR, DONE and PEND, so the next launch finds it idle. -/
theorem illegalCommandCompletes : Obligations.IllegalCommandCompletes := by
  intro s w e high unscheduled inFlight illegal
  have completes := (step_completes high inFlight unscheduled).trans (completeWord_illegal illegal s)
  exact ⟨_, completes, rfl, rfl, rfl, busWrite_cmd rfl⟩

/-! ## The order of the error conditions (R130) -/

/-- KEYLOAD is the only command that asks for a passphrase length (R126). -/
theorem exec_keyLength_tooLong {i : Instr} (long : 16 < keyLength i) (s : State) :
    exec i s = .next (s.raiseError .keySize) := by
  cases i with
  | keyload klen => exact exec_keyload_tooLong long s
  | _ => exact absurd long (by decide)

/-- A length that is out of order is reported before the key and the pad byte are looked at (R130). -/
theorem exec_badLength {i : Instr} {s : State} (bad : badLength i s) : exec i s = .next (s.raiseError .bufferSize) := by
  cases i with
  | pad => exact exec_pad_tooLong bad
  | unpad => exact exec_unpad_badLength bad
  | encMsg => exact exec_encMsg_badLength bad
  | decMsg => exact exec_decMsg_badLength bad
  | _ => exact bad.elim

/-- The pad byte is the last condition of all (R130). -/
theorem exec_badPadByte {i : Instr} {s : State} {n : Nat} (length : ¬ badLength i s)
    (key : usesKey i = false ∨ s.keyValid = true) (reads : padByte i s = some n) (outside : n < 1 ∨ 16 < n) :
    exec i s = .next (s.raiseError .dataSize) := by
  cases i with
  | unpad =>
    obtain rfl := Option.some.inj reads
    exact exec_unpad_error length ((unpadBytes_error_iff _ _ _ _).2 ⟨outside, rfl⟩)
  | decMsg =>
    obtain rfl := Option.some.inj reads
    exact exec_decMsg_error length (key.resolve_left nofun) ((unpadBytes_error_iff _ _ _ _).2 ⟨outside, rfl⟩)
  | _ => exact nomatch reads

/-- A command none of whose error conditions holds ends with `complete` (R16, R130). -/
theorem exists_exec_eq_complete {i : Instr} {s : State} (short : keyLength i ≤ 16) (length : ¬ badLength i s)
    (key : usesKey i = false ∨ s.keyValid = true) (pad : ∀ n, padByte i s = some n → 1 ≤ n ∧ n ≤ 16) :
    ∃ u : State, exec i s = .next u.complete := by
  have loaded (uses : usesKey i = true) : s.keyValid = true := key.resolve_left (by simp [uses])
  cases i with
  | nop | keyclr | chainInit => exact ⟨_, rfl⟩
  | keyload => exact ⟨_, exec_keyload_loads short s⟩
  | ecbEnc => exact ⟨_, exec_ecbEnc_loaded (loaded rfl)⟩
  | ecbDec => exact ⟨_, exec_ecbDec_loaded (loaded rfl)⟩
  | cbcEncBlk => exact ⟨_, exec_cbcEncBlk_loaded (loaded rfl)⟩
  | cbcDecBlk => exact ⟨_, exec_cbcDecBlk_loaded (loaded rfl)⟩
  | pad => exact ⟨_, exec_pad_fits (Nat.lt_of_not_le length)⟩
  | unpad => exact ⟨_, exec_unpad_ok length ((unpadBytes_ok_iff _ _ _ _).2 ⟨pad _ rfl, rfl⟩)⟩
  | encMsg => exact ⟨_, exec_encMsg_loaded length (loaded rfl)⟩
  | decMsg => exact ⟨_, exec_decMsg_ok length (loaded rfl) ((unpadBytes_ok_iff _ _ _ _).2 ⟨pad _ rfl, rfl⟩)⟩

/-- Settles O11: for each place in R130's order the outcome of `exec` where that condition is the first to hold. -/
theorem firstErrorIsReported : Obligations.FirstErrorIsReported := by
  intro w s t completes
  have ends {u : State} (outcome : completeWord w s = .next u) : t.err = u.err :=
    congrArg State.err (Host.Outcome.next.inj (completes.symm.trans outcome))
  refine ⟨fun e illegal => ends (completeWord_illegal illegal s), fun i legal => ?_⟩
  have exec_ends {u : State} (outcome : exec i s = .next u) : t.err = u.err :=
    ends ((completeWord_legal legal s).trans outcome)
  refine ⟨fun long => exec_ends (exec_keyLength_tooLong long s), fun short =>
    ⟨fun bad => exec_ends (exec_badLength bad), fun length =>
      ⟨fun ⟨uses, missing⟩ => exec_ends (exec_missing_key missing uses length), fun key =>
        ⟨fun n reads outside => exec_ends (exec_badPadByte length key reads outside), fun pad => ?ok⟩⟩⟩⟩
  obtain ⟨u, outcome⟩ := exists_exec_eq_complete short length key pad
  exact exec_ends outcome

/-! ## The interrupt level (R40, R133) -/

/-- The completion of a command word raises the interrupt where CTRL.IE = 1. -/
theorem irq_of_completeWord {w : Word} {s t : State} (completes : completeWord w s = .next t) :
    t.done = true ∧ t.irq = s.ie := by
  obtain ⟨u, next, -, -, done, -, -, -, -, ie, -⟩ := completionStep w s
  obtain rfl : u = t := Host.Outcome.next.inj (next.symm.trans completes)
  exact ⟨done, by rw [State.irq, done, ie, Bool.true_and]⟩

/-- A 1 written to STATUS.DONE lowers the interrupt. -/
theorem writeStatus_irq {v : Word} (clears : v.getLsbD 1 = true) (s : State) : (s.writeStatus v).irq = false := by
  simp [State.irq, clears]

/-- A launch lowers the interrupt: it clears DONE. -/
theorem launch_irq (s : State) (v : Word) : (s.launch v).irq = false := rfl

/-- A CTRL write with bit 0 clear lowers the interrupt. -/
theorem writeCtrl_irq {v : Word} (disables : v.getLsbD 0 = false) (s : State) : (s.writeCtrl v).irq = false := by
  rw [State.irq, State.writeCtrl_ie, disables, Bool.and_false]

/-- An idle CTRL write stores its three bits (R36, R73). -/
theorem busWrite_ctrl {s : State} (idle : s.pend = none) (v : Word) : busWrite 0x008#14 v s = (.okay, s.writeCtrl v) :=
  busWrite_idle (busy_eq_false_iff.2 idle) rfl (by decide) v

/-- A misaligned write changes nothing, and a dropped one nothing but OVR (R46, R145). -/
theorem busWrite_not_stored {s : State} {off : BitVec 14} (h : off.toNat % 4 ≠ 0 ∨ (s.busy = true ∧ off ≠ 0x00C#14))
    (v : Word) : ∃ ov, (busWrite off v s).2 = { s with ovr := ov } := by
  obtain ⟨-, answer⟩ | ⟨status, -⟩ | ⟨-, -, -, answer⟩ | ⟨aligned, -, idle, -⟩ := busWrite_cases off v s
  · exact ⟨s.ovr, congrArg Prod.snd answer⟩
  · obtain rfl : off = 0x00C#14 := BitVec.eq_of_toNat_eq status
    obtain misaligned | ⟨-, other⟩ := h
    · exact absurd rfl misaligned
    · exact absurd rfl other
  · exact ⟨true, congrArg Prod.snd answer⟩
  · obtain misaligned | ⟨busy, -⟩ := h
    · exact absurd aligned misaligned
    · exact nomatch idle.symm.trans busy

/-- Settles O51: each stored write is a named update with its `irq` lemma; a write not stored leaves DONE and IE. -/
theorem interruptLevel : Obligations.InterruptLevel := by
  intro s
  refine ⟨rfl, fun _ _ => irq_of_completeWord, fun v clears => writeStatus_irq clears s, fun idle v => ?launch,
    fun idle v disables => ?ctrl, fun off v notStored => ?unchanged⟩
  case launch =>
    rw [busWrite_cmd idle]
    exact launch_irq s v
  case ctrl =>
    rw [busWrite_ctrl idle]
    exact writeCtrl_irq disables s
  case unchanged =>
    obtain ⟨ov, answer⟩ := busWrite_not_stored notStored v
    rw [answer]
    rfl

/-! ## Safe schedules (R142) -/

/-- What the safety of a state depends on is unchanged: ENCDEC_BASE, the level of `rst_n` and the schedule. -/
def SameSchedule (s t : State) : Prop := t.base = s.base ∧ t.rstN = s.rstN ∧ t.host = s.host

theorem SameSchedule.safe {s t : State} (h : SameSchedule s t) (safe : Safe s = true) : Safe t = true := by
  obtain ⟨base, level, schedule⟩ := h
  rwa [Safe, base, level, schedule]

theorem SameOperands.sameSchedule {s t : State} (h : SameOperands s t) : SameSchedule s t := by
  obtain ⟨_, _, _, _, rfl⟩ := h
  exact ⟨rfl, rfl, rfl⟩

theorem Effect.sameSchedule {s t : State} {i : Instr} (e : Effect s i t) : SameSchedule s t := by
  cases e <;> exact ⟨rfl, rfl, rfl⟩

theorem writeSlot_sameSchedule (s : State) (sl : Slot) (v : Word) : SameSchedule s (writeSlot s sl v) := by
  cases sl <;> exact ⟨rfl, rfl, rfl⟩

/-- A bus write leaves the schedule, in flight or not. -/
theorem hostWrite_sameSchedule (off : BitVec 14) (v : Word) (s : State) : SameSchedule s (hostWrite off v s) := by
  obtain ⟨-, answer⟩ | ⟨-, answer⟩ | ⟨-, -, -, answer⟩ | ⟨-, -, -, answer⟩ := busWrite_cases off v s <;>
    rw [hostWrite, answer]
  case inr.inr.inr => exact writeSlot_sameSchedule s _ v
  all_goals exact ⟨rfl, rfl, rfl⟩

/-- Every command word completes and leaves the schedule (R131). -/
theorem completeWord_sameSchedule (w : Word) (s : State) : ∃ t, completeWord w s = .next t ∧ SameSchedule s t := by
  obtain ⟨i, -, legal⟩ | ⟨-, -, illegal⟩ := completeWord_cases w s
  · obtain ⟨t, next⟩ := exists_exec_next i s
    exact ⟨t, legal.trans next, (effect_of_exec next).sameSchedule⟩
  · exact ⟨_, illegal, rfl, rfl, rfl⟩

/-- The engine's turn never stops the machine. -/
theorem engineTurn_sameSchedule (s : State) : ∃ t, engineTurn s = .next t ∧ SameSchedule s t := by
  obtain ⟨-, reset⟩ | ⟨-, -, idle⟩ | ⟨w, -, -, completes⟩ := engineTurn_cases s
  · exact ⟨_, reset, rfl, rfl, rfl⟩
  · exact ⟨s, idle, rfl, rfl, rfl⟩
  · obtain ⟨t, next, same⟩ := completeWord_sameSchedule w s
    exact ⟨t, completes.trans next, same⟩

/-- A transaction is refused only inside the window and with `rst_n` low (R142). -/
theorem hostTransaction_sameSchedule {s : State} {addr : Nat} {run : BitVec 14 → State}
    (allowed : (s.rstN || outsideWindow s.base addr) = true) (runs : ∀ off, SameSchedule s (run off)) :
    ∃ t, hostTransaction addr run s = .next t ∧ SameSchedule s t := by
  obtain ⟨-, outside⟩ | ⟨off, -, -, inside⟩ | ⟨off, window, low, -⟩ := hostTransaction_cases addr run s
  · exact ⟨_, outside, rfl, rfl, rfl⟩
  · exact ⟨_, inside, runs off⟩
  · simp [low, outsideWindow, window] at allowed

/-- After a release `rst_n` is high, whether or not it rose (R142). -/
theorem releaseReset_schedule (s : State) :
    s.releaseReset.base = s.base ∧ s.releaseReset.rstN = true ∧ s.releaseReset.host = s.host := by
  unfold State.releaseReset
  split
  · exact ⟨rfl, ‹_›, rfl⟩
  · exact ⟨rfl, rfl, rfl⟩

/-- An event that keeps off the bus during reset does not stop the machine, and the rest of the schedule stays safe. -/
theorem hostEvent_safe {s : State} {e : HostEvent} (safe : keepsOffReset s.base s.rstN (e :: s.host) = true) :
    ∃ t, hostEvent e s = .next t ∧ Safe t = true := by
  cases e with
  | read addr =>
    obtain ⟨allowed, later⟩ := Bool.and_eq_true_iff.1 safe
    obtain ⟨t, next, same⟩ :=
      hostTransaction_sameSchedule allowed fun off => (hostRead_sameOperands off s).sameSchedule
    exact ⟨t, next, same.safe later⟩
  | write addr v =>
    obtain ⟨allowed, later⟩ := Bool.and_eq_true_iff.1 safe
    obtain ⟨t, next, same⟩ := hostTransaction_sameSchedule allowed fun off => hostWrite_sameSchedule off v s
    exact ⟨t, next, same.safe later⟩
  | engine =>
    obtain ⟨t, next, same⟩ := engineTurn_sameSchedule s
    exact ⟨t, next, same.safe safe⟩
  | resetAssert => exact ⟨s.assertReset, rfl, safe⟩
  | resetRelease =>
    obtain ⟨base, high, schedule⟩ := releaseReset_schedule s
    exact ⟨s.releaseReset, rfl, by rw [Safe, base, high, schedule]; exact safe⟩

/-- A step from a safe state does not stop the machine, and the state it answers is safe. -/
theorem step_safe {s : State} (safe : Safe s = true) : ∃ t, step s = .next t ∧ Safe t = true := by
  cases schedule : s.host with
  | nil =>
    obtain ⟨t, next, same⟩ := engineTurn_sameSchedule s
    exact ⟨t, (step_unscheduled s schedule).trans next, same.safe safe⟩
  | cons e rest =>
    rw [Safe, schedule] at safe
    obtain ⟨t, next, later⟩ := hostEvent_safe (s := { s with host := rest }) safe
    exact ⟨t, (step_scheduled s e rest schedule).trans next, later⟩

/-- A property under which every step answers a next state that has it again holds after any number of steps. -/
theorem runSteps_of_step {P : State → Prop} (progress : ∀ s, P s → ∃ t, step s = .next t ∧ P t) (n : Nat) {s : State}
    (h : P s) : ∃ t, runSteps n s = .next t ∧ P t := by
  induction n generalizing s with
  | zero => exact ⟨s, rfl, h⟩
  | succ n ih =>
    obtain ⟨t, next, ht⟩ := progress s h
    rw [runSteps_succ_of_next next]
    exact ih ht

/-- Settles O58: a safe state's step answers a safe state, so a run of any length goes on. -/
theorem safeScheduleNeverStops : Obligations.SafeScheduleNeverStops := fun n _ safe =>
  runSteps_of_step (P := fun s => Safe s = true) (fun _ => step_safe) n safe

end Sys2Proof.Machine
end

section
namespace Sys2Proof.Machine

/-! ## The reset input (R142) -/

/-- Asserting `rst_n` leaves the reset values, with the level low. -/
theorem step_resetAssert {s : State} {rest : List HostEvent} (h : s.host = .resetAssert :: rest) :
    step s = .next (State.assertReset { s with host := rest }) := step_scheduled s _ rest h

/-- `rst_n` rises from a low level: the reset values again, with the level high. -/
theorem step_resetRelease {s : State} {rest : List HostEvent} (low : s.rstN = false)
    (h : s.host = .resetRelease :: rest) :
    step s = .next { State.resetValues { s with host := rest } with rstN := true } := by
  rw [step_scheduled s _ rest h, hostEvent, State.releaseReset, low]
  rfl

/-- Settles O54: both edges of `rst_n` leave `State.resetValues`, which keeps only the parameters and the model's record. -/
theorem resetInputResets : Obligations.ResetInputResets := by
  intro s rest asserted
  refine ⟨_, step_resetAssert asserted, rfl, rfl, rfl, rfl, rfl, rfl, rfl, fun after => ?_⟩
  exact ⟨_, step_resetRelease rfl rfl, rfl, rfl⟩

/-! ## Writes while a command is in flight (R145) -/

/-- In flight an aligned write to any offset but STATUS is dropped and sets OVR. -/
theorem busWrite_dropped {s : State} {off : BitVec 14} (busy : s.busy = true) (aligned : off.toNat % 4 = 0)
    (offset : off.toNat ≠ offStatus) (v : Word) : busWrite off v s = (.okay, { s with ovr := true }) := by
  obtain ⟨mis, -⟩ | ⟨status, -⟩ | ⟨-, -, -, answer⟩ | ⟨-, -, idle, -⟩ := busWrite_cases off v s
  · exact absurd aligned mis
  · exact absurd status offset
  · exact answer
  · exact nomatch idle.symm.trans busy

/-- The one bus write that clears OVR is a 1 written to STATUS bit 3 (R37, R145). -/
theorem busWrite_clears_ovr {s : State} {off : BitVec 14} {v : Word} (set : s.ovr = true)
    (cleared : (busWrite off v s).2.ovr = false) : off = 0x00C#14 ∧ v.getLsbD 3 = true := by
  obtain ⟨-, answer⟩ | ⟨status, answer⟩ | ⟨-, -, -, answer⟩ | ⟨-, -, -, answer⟩ := busWrite_cases off v s <;>
    rw [answer] at cleared
  · exact nomatch set.symm.trans cleared
  · refine ⟨BitVec.eq_of_toNat_eq status, ?_⟩
    simpa [set] using cleared
  · exact nomatch cleared
  · obtain ⟨-, -, -, -, -, -, -, -, -, -, ovr⟩ := writeSlot_frame s (selectSlot s.bufBytes off) v
    exact nomatch (ovr.trans set).symm.trans cleared

/-- A bus read leaves OVR (R54). -/
theorem busRead_ovr (off : BitVec 14) (s : State) : (busRead off s).2.2.ovr = s.ovr := by
  rw [(readsChangeNothing s off).1]

/-- No completion writes OVR (R75, R145). -/
theorem ovr_of_completeWord {w : Word} {s t : State} (completes : completeWord w s = .next t) : t.ovr = s.ovr := by
  obtain ⟨u, next, -, -, -, -, -, -, -, -, -, -, -, -, -, ovr⟩ := completionStep w s
  obtain rfl : u = t := Host.Outcome.next.inj (next.symm.trans completes)
  exact ovr

/-- Settles O43: the four things a bus write can do, and which transactions and completions leave OVR set. -/
theorem busyWritesAreDropped : Obligations.BusyWritesAreDropped := by
  intro s off v
  refine ⟨fun busy aligned other => busWrite_dropped busy aligned ?offset v, busWrite_status v s,
    fun misaligned => busWrite_misaligned misaligned v s, fun set => ⟨busWrite_clears_ovr set,
      (busRead_ovr off s).trans set, fun w t completes => (ovr_of_completeWord completes).trans set⟩⟩
  case offset => exact fun status => other (BitVec.eq_of_toNat_eq status)

/-! ## Reads while a command is in flight (R72, R146) -/

/-- The offsets of CHAIN0-3, DOUT0-3, OUT_LEN and the OBUF window's words, where a buffer has `n` bytes: what R146 leaves
unspecified in flight. -/
def unspecifiedOffset (n o : Nat) : Prop :=
  (0x040 ≤ o ∧ o < 0x050) ∨ (0x060 ≤ o ∧ o < 0x070) ∨ o = 0x018 ∨ (0x2000 ≤ o ∧ o < 0x3000 ∧ o - 0x2000 + 4 ≤ n)

/-- A word of the OBUF window inside the buffer, whatever the size of the buffer (R41, R51). -/
theorem selectSlot_obuf {n : Nat} {off : BitVec 14} (above : 0x2000 ≤ off.toNat) (below : off.toNat < 0x3000)
    (inside : off.toNat - 0x2000 + 4 ≤ n) : selectSlot n off = .obuf (off.toNat - 0x2000) := by
  have register {k : Nat} (h : k < 0x2000) : off.toNat ≠ k := by omega
  have range {k : Nat} (h : k ≤ 0x2000) : ¬ off.toNat < k := by omega
  unfold selectSlot
  iterate 7 refine (if_neg (register (by decide))).trans ?_
  iterate 8 refine (if_neg (range (by decide))).trans ?_
  exact (if_pos below).trans (if_pos inside)

/-- The register map puts the volatile slots exactly at the offsets R146 names. -/
theorem volatile_selectSlot_iff {n : Nat} {off : BitVec 14} (aligned : off.toNat % 4 = 0) :
    (selectSlot n off).volatile = true ↔ unspecifiedOffset n off.toNat := by
  constructor
  · intro volatile
    have lies := selectSlot_liesAt n off
    generalize selectSlot n off = sl at lies volatile
    unfold unspecifiedOffset
    cases sl with
    | outLen | chain | dout | obuf => simp only [Slot.liesAt] at lies; omega
    | _ => exact nomatch volatile
  · rintro (⟨above, below⟩ | ⟨above, below⟩ | outLen | ⟨above, below, inside⟩)
    · obtain ⟨-, chain, -⟩ := selectSlot_word n ⟨(off.toNat - 0x040) / 4, by omega⟩
      rw [← ofNat_word_offset aligned (start := 0x040) rfl above, chain]
      rfl
    · obtain ⟨-, -, -, dout⟩ := selectSlot_word n ⟨(off.toNat - 0x060) / 4, by omega⟩
      rw [← ofNat_word_offset aligned (start := 0x060) rfl above, dout]
      rfl
    · obtain rfl : off = 0x018#14 := BitVec.eq_of_toNat_eq outLen
      rfl
    · rw [selectSlot_obuf above below inside]
      rfl

/-- STATUS alone shows whether a command is in flight (R37). -/
theorem slotValue_of_pend {sl : Slot} (h : sl ≠ .status) (s : State) (p : Option Word) :
    slotValue { s with pend := p } sl = slotValue s sl := by
  cases sl with
  | status => exact absurd rfl h
  | _ => rfl

/-- In flight STATUS reads its idle value with BUSY set (R37). -/
theorem statusWord_inFlight {s : State} (busy : s.busy = true) :
    s.statusWord = State.statusWord { s with pend := none } ||| 1#32 := by
  have fields : ∀ (done key ovr : Bool) (code : BitVec 4),
      BitVec.ofNat 32 (bitNat true + 2 * bitNat done + 4 * bitNat key + 8 * bitNat ovr + 256 * code.toNat) =
        BitVec.ofNat 32 (bitNat false + 2 * bitNat done + 4 * bitNat key + 8 * bitNat ovr + 256 * code.toNat) ||| 1#32 := by
    decide
  rw [State.statusWord, busy]
  exact fields _ _ _ _

/-- Settles O44: the slot an offset selects decides whether its read is a draw, and no other slot but STATUS shows BUSY. -/
theorem busyReads : Obligations.BusyReads := by
  intro s off busy aligned
  refine ⟨fun unspecified => ?drawn, fun specified other => ?same, ?status⟩
  case drawn =>
    have volatile := (volatile_selectSlot_iff aligned).2 unspecified
    rw [busRead_unspecified aligned (by rw [busy, volatile]; rfl)]
    exact ⟨rfl, rfl⟩
  case same =>
    have notVolatile : (selectSlot s.bufBytes off).volatile = false :=
      Bool.eq_false_iff.2 (mt (volatile_selectSlot_iff aligned).1 specified)
    have notStatus : selectSlot s.bufBytes off ≠ .status := by
      intro status
      have lies := selectSlot_liesAt s.bufBytes off
      rw [status] at lies
      exact other lies
    rw [busRead_of_not_volatile aligned notVolatile, busRead_idle (s := { s with pend := none }) rfl aligned]
    exact congrArg (fun word => (Resp.okay, word, s)) (slotValue_of_pend notStatus s none).symm
  case status =>
    rw [busRead_of_not_volatile rfl rfl, busRead_idle (s := { s with pend := none }) rfl rfl]
    exact statusWord_inFlight busy

/-! ## A command in flight completes (R151) -/

/-- The engine's step with a command in flight ends it and leaves the schedule used up. -/
theorem SameOperands.step_ends {s t : State} (h : SameOperands s t) (high : s.rstN = true) (busy : s.busy = true)
    (unscheduled : s.host = []) : ∃ u, step t = .next u ∧ u.busy = false ∧ u.done = true ∧ u.host = [] := by
  obtain ⟨w, inFlight⟩ := Option.isSome_iff_exists.1 busy
  have completes : step t = completeWord w t := by
    obtain ⟨_, _, _, _, rfl⟩ := h
    exact step_completes high inFlight unscheduled
  obtain ⟨u, next, -, -, done, -, idle, -⟩ := completionStep w t
  obtain ⟨u', next', -, -, schedule⟩ := completeWord_sameSchedule w t
  obtain rfl : u' = u := Host.Outcome.next.inj (next'.symm.trans next)
  obtain ⟨-, -, kept⟩ := h.sameSchedule
  exact ⟨u', completes.trans next, idle, done, (schedule.trans kept).trans unscheduled⟩

/-- Settles O59: the transactions leave the command in flight, and the engine's step after them ends it. -/
theorem commandInFlightCompletes : Obligations.CommandInFlightCompletes := by
  intro s high busy transactions
  obtain ⟨t, run, same⟩ := runSteps_transactions s.host (s := { s with host := [] }) high busy rfl transactions
  obtain ⟨u, ends, outcome⟩ := same.step_ends high busy rfl
  exact ⟨u, run.trans ends, outcome⟩

end Sys2Proof.Machine
end
